-- ==== Sys2Proof/Word.lean ====
section
/-! DEFINITION. The word types of AMB (00_scope.md R7: the register and data word is 32 bits). -/

namespace Sys2Proof

/-- A byte of the host bus or of a DMEM byte stream. -/
abbrev Byte := BitVec 8

/-- A 16-bit PCM sample, the width of a HIST entry (R41). -/
abbrev Half := BitVec 16

/-- The register and data word (R7). -/
abbrev Word := BitVec 32

/-- The width of the derived factors Q_RCP, Q_STEP and S_K (R34, R36). -/
abbrev DWord := BitVec 64

end Sys2Proof
end

