-- ==== Sys2Proof/Syntax.lean ====
section
/-! DEFINITION. The commands of AMB: one constructor for each row of the opcode map (30_encoding.md R92). -/

namespace Sys2Proof

/-- A decoded command. Operands other than the in-word fields ZIN, NOWR and PROF (R90) are registers (R93). -/
inductive Instr where
  /-- NOP, 0x00 (R127). -/
  | nop
  /-- XF_RESET, 0x01 (R145). -/
  | xfReset
  /-- MDCT_FWD, 0x10 (R146); ZIN: a hop of zero samples instead of DMEM. -/
  | mdctFwd (zin : Bool)
  /-- MDCT_INV, 0x11 (R149); NOWR: the output samples are not written. -/
  | mdctInv (nowr : Bool)
  /-- STFT_FWD, 0x12 (R152). -/
  | stftFwd (zin : Bool)
  /-- STFT_INV, 0x13 (R153). -/
  | stftInv (nowr : Bool)
  /-- Q_CONFIG, 0x20 (R201). -/
  | qConfig
  /-- QUANT, 0x21 (R202). -/
  | quant
  /-- DEQUANT, 0x22 (R203). -/
  | dequant
  /-- COMPAND, 0x23 (R211). -/
  | compand
  /-- EXPAND, 0x24 (R212). -/
  | expand
  /-- S_CONFIG, 0x28 (R216). -/
  | sConfig
  /-- SCALE, 0x29 (R217). -/
  | scale
  /-- RECIP, 0x2A (R182). -/
  | recip
  /-- MUPD, 0x2B (R184). -/
  | mupd
  /-- SHIFT, 0x2C (R186). -/
  | shift
  /-- UNSHIFT, 0x2D (R187). -/
  | unshift
  /-- EC_ENCODE, 0x30 (R233); PROF: the profile number. -/
  | ecEncode (prof : Nat)
  /-- EC_DECODE, 0x31 (R234). -/
  | ecDecode (prof : Nat)
deriving DecidableEq, Repr

end Sys2Proof
end

