-- ==== Sys2Proof/WellFormed.lean ====
section
/-! DEFINITION. Which terms of Instr a command word can hold. -/

namespace Sys2Proof

/-- PROF is a 4-bit field (30_encoding.md R90, R94), so a profile number is below 16; a number from P_NPROF to 15
is a legal encoding (R94). Every other field is one bit. -/
def Instr.wellFormed : Instr → Bool
  | .ecEncode prof => decide (prof < 16)
  | .ecDecode prof => decide (prof < 16)
  | .nop | .xfReset | .mdctFwd _ | .mdctInv _ | .stftFwd _ | .stftInv _ | .qConfig | .quant | .dequant | .compand
  | .expand | .sConfig | .scale | .recip | .mupd | .shift | .unshift => true

/-- `wellFormed` as a proposition. -/
abbrev Instr.WellFormed (i : Instr) : Prop := i.wellFormed = true

end Sys2Proof
end

