-- ==== Sys2Proof/Decode.lean ====
section
/-! DEFINITION. Decoding a command word (30_encoding.md R90 to R96), the encoder, and the opcode table. -/

namespace Sys2Proof

/-- The two ways a word decodes to no command (R91). -/
inductive DecodeError where
  /-- R91 (1): bits 7:0 are no opcode of R92. -/
  | badOpcode
  /-- R91 (2): a bit outside the opcode's fields is 1. -/
  | reservedField
deriving DecidableEq, Repr

/-- OPC, bits 7:0 (R90). -/
def opcField (w : Word) : Nat := (w.extractLsb' 0 8).toNat

/-- ZIN, bit 8 (R90). -/
def zinField (w : Word) : Bool := w.getLsbD 8

/-- NOWR, bit 9 (R90). -/
def nowrField (w : Word) : Bool := w.getLsbD 9

/-- PROF, bits 19:16, read as zext_4 (R94). -/
def profField (w : Word) : Nat := (w.extractLsb' 16 4).toNat

/-- The opcode map (R92): the set A of used bits (R91 (2)) and the command, for an opcode of the table. -/
def opcodeEntry (w : Word) : Option (Word × Instr) :=
  match opcField w with
  | 0x00 => some (0x000000FF, .nop)
  | 0x01 => some (0x000000FF, .xfReset)
  | 0x10 => some (0x000001FF, .mdctFwd (zinField w))
  | 0x11 => some (0x000002FF, .mdctInv (nowrField w))
  | 0x12 => some (0x000001FF, .stftFwd (zinField w))
  | 0x13 => some (0x000002FF, .stftInv (nowrField w))
  | 0x20 => some (0x000000FF, .qConfig)
  | 0x21 => some (0x000000FF, .quant)
  | 0x22 => some (0x000000FF, .dequant)
  | 0x23 => some (0x000000FF, .compand)
  | 0x24 => some (0x000000FF, .expand)
  | 0x28 => some (0x000000FF, .sConfig)
  | 0x29 => some (0x000000FF, .scale)
  | 0x2A => some (0x000000FF, .recip)
  | 0x2B => some (0x000000FF, .mupd)
  | 0x2C => some (0x000000FF, .shift)
  | 0x2D => some (0x000000FF, .unshift)
  | 0x30 => some (0x000F00FF, .ecEncode (profField w))
  | 0x31 => some (0x000F00FF, .ecDecode (profField w))
  | _ => none

/-- Decoding a command word, total (R91): BAD_OPCODE first, then RESERVED_FIELD. -/
def decode (w : Word) : Except DecodeError Instr :=
  match opcodeEntry w with
  | none => .error .badOpcode
  | some (used, i) => if w &&& ~~~used = 0 then .ok i else .error .reservedField

/-- The command word of R90, field by field from bit 31 down. -/
def commandWord (opc : Nat) (zin nowr : Bool) (prof : Nat) : Word :=
  0#12 ++ BitVec.ofNat 4 prof ++ 0#6 ++ BitVec.ofBool nowr ++ BitVec.ofBool zin ++ BitVec.ofNat 8 opc

/-- The word of a well-formed command, from R92's opcodes and R90's fields; an unused field is 0. -/
def encode : Instr → Word
  | .nop => commandWord 0x00 false false 0
  | .xfReset => commandWord 0x01 false false 0
  | .mdctFwd zin => commandWord 0x10 zin false 0
  | .mdctInv nowr => commandWord 0x11 false nowr 0
  | .stftFwd zin => commandWord 0x12 zin false 0
  | .stftInv nowr => commandWord 0x13 false nowr 0
  | .qConfig => commandWord 0x20 false false 0
  | .quant => commandWord 0x21 false false 0
  | .dequant => commandWord 0x22 false false 0
  | .compand => commandWord 0x23 false false 0
  | .expand => commandWord 0x24 false false 0
  | .sConfig => commandWord 0x28 false false 0
  | .scale => commandWord 0x29 false false 0
  | .recip => commandWord 0x2A false false 0
  | .mupd => commandWord 0x2B false false 0
  | .shift => commandWord 0x2C false false 0
  | .unshift => commandWord 0x2D false false 0
  | .ecEncode prof => commandWord 0x30 false false prof
  | .ecDecode prof => commandWord 0x31 false false prof

/-- The rows of spec/opcode_table.json as (mask, match): a word decodes to a row's command exactly when
(w AND mask) = match (R91). -/
def opcodeTable : List (Word × Word) :=
  [(0xFFFFFFFF, 0x00000000), (0xFFFFFFFF, 0x00000001),
   (0xFFFFFEFF, 0x00000010), (0xFFFFFDFF, 0x00000011), (0xFFFFFEFF, 0x00000012), (0xFFFFFDFF, 0x00000013),
   (0xFFFFFFFF, 0x00000020), (0xFFFFFFFF, 0x00000021), (0xFFFFFFFF, 0x00000022), (0xFFFFFFFF, 0x00000023),
   (0xFFFFFFFF, 0x00000024), (0xFFFFFFFF, 0x00000028), (0xFFFFFFFF, 0x00000029),
   (0xFFFFFFFF, 0x0000002A), (0xFFFFFFFF, 0x0000002B), (0xFFFFFFFF, 0x0000002C), (0xFFFFFFFF, 0x0000002D),
   (0xFFF0FFFF, 0x00000030), (0xFFF0FFFF, 0x00000031)]

/-- The position of a command's row in `opcodeTable`. -/
def Instr.tableRow : Instr → Nat
  | .nop => 0 | .xfReset => 1 | .mdctFwd _ => 2 | .mdctInv _ => 3 | .stftFwd _ => 4 | .stftInv _ => 5
  | .qConfig => 6 | .quant => 7 | .dequant => 8 | .compand => 9 | .expand => 10 | .sConfig => 11 | .scale => 12
  | .recip => 13 | .mupd => 14 | .shift => 15 | .unshift => 16 | .ecEncode _ => 17 | .ecDecode _ => 18

/-- The host's question: the command that the decoder reads from the `nbits` low bits of `w`, the rest 0. A command
is one 32-bit word (R96), so the word is its own layout. -/
def decodeTableWord (nbits w : Nat) : Option Instr :=
  match decode (BitVec.ofNat 32 (w % 2 ^ nbits)) with
  | .ok i => some i
  | .error _ => none

end Sys2Proof
end

