-- ==== Sys2Proof/Config.lean ====
section
/-! DEFINITION. The instance parameters of AMB (00_scope.md R6) and the free values: what the spec leaves
unspecified, as constants without a body, so that no proof can see a value. -/

namespace Sys2Proof.Config

/-- The RAMs of AMB (10_state.md R40 to R44). -/
inductive RamId where
  | dmem | hist | ola | clut | elut | ct
deriving DecidableEq, Repr

/-- The implementation parameters of R6. They are fixed for an instance; the model carries them in State
(log entry 1), so that a statement about every state is one about every instance. -/
structure Params where
  /-- P_NMAX: the largest hop length, the length of HIST and OLA. -/
  nmax : Nat
  /-- P_DMEM_WORDS: the number of DMEM words. -/
  dmemWords : Nat
  /-- P_LUT_LOG2, written S: the compander tables have 2^S + 1 entries. -/
  lutLog2 : Nat
  /-- P_NPROF: the number of entropy profiles. -/
  nprof : Nat
  /-- P_NSYM: the symbols of a profile. -/
  nsym : Nat
  /-- P_BASE: the platform byte address of the window; OPEN in the spec (log entry 2). -/
  base : Nat
deriving DecidableEq, Repr

/-- The legal values of R6. -/
abbrev Params.Legal (p : Params) : Prop :=
  p.nmax % 2 = 0 ∧ 2 ≤ p.nmax ∧ p.nmax ≤ 4096 ∧
  1024 ≤ p.dmemWords ∧ p.dmemWords ≤ 65536 ∧
  1 ≤ p.lutLog2 ∧ p.lutLog2 ≤ 10 ∧
  1 ≤ p.nprof ∧ p.nprof ≤ 4 ∧
  2 ≤ p.nsym ∧ p.nsym ≤ 4096 ∧
  p.base % 0x80000 = 0

/-- R6's default column. P_BASE has no default there: 0 is a DESIGN CHOICE (log entries 1 and 2). -/
def Params.default : Params :=
  { nmax := 2048, dmemWords := 16384, lutLog2 := 8, nprof := 4, nsym := 256, base := 0 }

/-- FREE VALUE (R290, U2; log entry 3): the byte that a RAM holds at an offset after hard reset number `epoch`,
until it is written. -/
opaque powerOnByte (epoch : Nat) (ram : RamId) (offset : Nat) : Byte

/-- FREE VALUE (R66 (b), U3; log entry 4): the word that a host read of a RAM returns while a command runs, one
for each value of the draw counter. -/
opaque freeWord (draw : Nat) : Word

/-- FREE VALUE (R291, U4; log entry 5): a byte of a destination of a cancelled command, one for each value of the
draw counter. -/
opaque freeByte (draw : Nat) : Byte

/-- FREE VALUE (log entry 12): whether a host write to a reserved register offset while a command runs sets HOSTERR
(R66 (d) and U10 say every write but to CTRL and STATUS does, U8 that a write to a reserved offset sets no flag). -/
opaque reservedBusyWriteFlags : Bool

end Sys2Proof.Config
end

