-- ==== Sys2Proof/Machine/State.lean ====
section
/-! DEFINITION. The state of AMB (10_state.md R20 to R47), plain data, and its value after a hard reset (R290). -/

namespace Sys2Proof.Machine

open Sys2Proof.Config (Params RamId)

/-- A RAM: its written bytes as (byte offset in the RAM, byte), offsets strictly rising. A byte that is not listed
has not been written since the last hard reset; it holds no value here and reads as a free value
(log entry 3). Element i of a 32-bit RAM has the offsets 4i to 4i+3, entry i of HIST the offsets 2i and 2i+1. -/
abbrev Memory := List Host.Cell

/-- The canonical form: offsets strictly rising. An unlisted offset holds no value, so no entry can equal it. -/
abbrev Memory.wf (m : Memory) : Prop := m.Pairwise (fun a b => a.1 < b.1)

/-- Every listed offset lies below `size`. -/
abbrev Memory.within (m : Memory) (size : Nat) : Prop := ∀ c ∈ m, c.1 < size

/-- The six RAMs (R40 to R44). -/
structure Rams where
  dmem : Memory
  hist : Memory
  ola : Memory
  clut : Memory
  elut : Memory
  /-- Entry (p, s) has the offsets from 4 * (4096 p + s), as in the window (R44). -/
  ct : Memory
deriving DecidableEq, Repr

/-- STATUS bits 1 to 6 (R25, R26). BUSY is no field: it is 1 exactly while a command is in flight (log entry 9). -/
structure Flags where
  done : Bool
  err : Bool
  sat : Bool
  divz : Bool
  buserr : Bool
  hosterr : Bool
deriving DecidableEq, Repr

/-- The operand registers of R29 and XF_N (R30). -/
structure OperandRegs where
  src0 : Word
  src1 : Word
  src2 : Word
  dst : Word
  count : Word
  rows : Word
  cols : Word
  cap : Word
  xfN : Word
deriving DecidableEq, Repr

/-- The result registers (R32). -/
structure ResultRegs where
  res0 : Word
  res1 : Word
  res2 : Word
deriving DecidableEq, Repr

/-- The quantizer's registers (R33, R34). -/
structure QuantRegs where
  qMin : Word
  qMax : Word
  qLevels : Word
  qRcp : DWord
  qStep : DWord
  /-- Q_VALID bit 0; its other bits read 0. -/
  qValid : Bool
deriving DecidableEq, Repr

/-- The scaling registers (R35, R36). -/
structure ScaleRegs where
  oldMin : Word
  oldMax : Word
  newMin : Word
  newMax : Word
  k : DWord
  /-- S_VALID bit 0; its other bits read 0. -/
  sValid : Bool
deriving DecidableEq, Repr

/-- What a host access does (R63). -/
inductive BusOp where
  | read
  | write (v : Word)
deriving DecidableEq, Repr

/-- A host bus access: its platform byte address, its width in bytes, and what it does (R60, R63). -/
structure Access where
  addr : Nat
  width : Nat
  op : BusOp
deriving DecidableEq, Repr

/-- What moves next (R15, R268, R290; log entry 6). -/
inductive Event where
  /-- The sequencer takes a turn: it completes the in-flight command, if there is one (R121). -/
  | sequencer
  /-- The host performs a bus access (R63). -/
  | bus (a : Access)
  /-- The platform's reset input (R290). -/
  | hardReset
deriving DecidableEq, Repr

/-- The state of AMB. -/
structure State where
  /-- The instance parameters (R6), fixed; the model's own field (log entry 1). -/
  cfg : Params
  /-- CTRL.IE (R24). -/
  ie : Bool
  /-- STATUS bits 6:1 (R25, R26). -/
  flags : Flags
  /-- ERRINFO (R27). -/
  errinfo : Word
  /-- CMD (R28). -/
  cmd : Word
  /-- SRC0 to CAP and XF_N (R29, R30). -/
  ops : OperandRegs
  /-- SHIFTV (R31). -/
  shiftv : Word
  /-- RES0 to RES2 (R32). -/
  res : ResultRegs
  /-- Q_MIN to Q_VALID (R33, R34). -/
  quant : QuantRegs
  /-- S_OLDMIN to S_VALID (R35, R36). -/
  scl : ScaleRegs
  /-- EC_PROFV (R37). -/
  profv : Word
  /-- DMEM, HIST, OLA, CLUT, ELUT and CT (R40 to R44). -/
  ram : Rams
  /-- The in-flight command word (R47, R120). -/
  inflight : Option Word
  /-- The value the last host read returned; the model's own field (log entry 7). -/
  rdata : Word
  /-- The events to come, the next one first; the model's own field (log entry 6). -/
  agenda : List Event
  /-- How many free values were drawn; the model's own field (log entry 4). -/
  draws : Nat
  /-- How many hard resets there were, which names the RAMs' power-on values; the model's own field (log entry 3). -/
  epoch : Nat
deriving DecidableEq, Repr

/-- What computing one element gives (R125): the word to write and the sticky conditions it raises. -/
structure Elem where
  word : Word
  sat : Bool
  divz : Bool
deriving DecidableEq, Repr

/-- Reasons for the machine to stop. There is none: every command word and every host access has an outcome the
spec defines (R91, R63, R301), and U1 to U25 name no stuck state (log entry 17). -/
inductive Fault where
deriving DecidableEq, Repr

/-- Refusals of the model. -/
inductive Refusal where
  /-- Raised only by an arm of exec whose instruction has no meaning yet; safe. -/
  | notModelled (mnemonic : String)
deriving DecidableEq, Repr

/-- The flags after either reset (R290, R291). -/
def Flags.reset : Flags :=
  { done := false, err := false, sat := false, divz := false, buserr := false, hosterr := false }

/-- No byte written (R290). -/
def Rams.reset : Rams := { dmem := [], hist := [], ola := [], clut := [], elut := [], ct := [] }

/-- The operand registers after either reset (R290, R291). -/
def OperandRegs.reset : OperandRegs :=
  { src0 := 0, src1 := 0, src2 := 0, dst := 0, count := 0, rows := 0, cols := 0, cap := 0, xfN := 0 }

/-- The result registers after either reset. -/
def ResultRegs.reset : ResultRegs := { res0 := 0, res1 := 0, res2 := 0 }

/-- The quantizer's registers after either reset. -/
def QuantRegs.reset : QuantRegs := { qMin := 0, qMax := 0, qLevels := 0, qRcp := 0, qStep := 0, qValid := false }

/-- The scaling registers after either reset. -/
def ScaleRegs.reset : ScaleRegs := { oldMin := 0, oldMax := 0, newMin := 0, newMax := 0, k := 0, sValid := false }

/-- The machine right after a hard reset (R290): every register 0, no command in flight, no RAM byte written. The
instance and the model's own fields are as log entries 1 to 7 say. -/
def State.reset : State :=
  { cfg := Params.default
    ie := false
    flags := Flags.reset
    errinfo := 0
    cmd := 0
    ops := OperandRegs.reset
    shiftv := 0
    res := ResultRegs.reset
    quant := QuantRegs.reset
    scl := ScaleRegs.reset
    profv := 0
    ram := Rams.reset
    inflight := none
    rdata := 0
    agenda := []
    draws := 0
    epoch := 0 }

end Sys2Proof.Machine
end

