-- ==== Sys2Proof/Machine/Flags.lean ====
section
/-! DEFINITION. Rounding, saturation and clamping (00_scope.md R9 to R11), the sticky flags they raise, the STATUS
word (10_state.md R25, R26) and IRQ (R46). -/

namespace Sys2Proof.Machine

/-- sext_N (R9): the pattern as a two's-complement number. -/
def sext {n : Nat} (v : BitVec n) : Int := v.toInt

/-- zext_N (R9): the pattern as an unsigned number. -/
def zext {n : Nat} (v : BitVec n) : Nat := v.toNat

/-- bits_32 (R9) of an integer in the range of 32 bits. -/
def bits32 (x : Int) : Word := BitVec.ofInt 32 x

/-- bits_64 (R9). -/
def bits64 (x : Int) : DWord := BitVec.ofInt 64 x

/-- RNE (R10) for a positive denominator: floor, then up when the remainder is over a half, or is a half and the
floor is odd. -/
def rnePos (p q : Int) : Int :=
  let f := p / q
  let r := p % q
  if 2 * r < q then f else if q < 2 * r then f + 1 else if f % 2 = 0 then f else f + 1

/-- RNE(p, q) (R10): the integer nearest to p/q, the even one at a tie, for q ≠ 0. -/
def rne (p q : Int) : Int := if q < 0 then rnePos (-p) (-q) else rnePos p q

/-- clamp(x, lo, hi) (R11). -/
def clamp (x lo hi : Int) : Int := min (max x lo) hi

/-- SAT32 (R11). -/
def sat32 (x : Int) : Int := clamp x (-2 ^ 31) (2 ^ 31 - 1)

/-- SAT16 (R11). -/
def sat16 (x : Int) : Int := clamp x (-2 ^ 15) (2 ^ 15 - 1)

/-- SAT32 changes its argument (R11, R26). -/
def clips32 (x : Int) : Bool := sat32 x ≠ x

/-- SAT16 changes its argument (R11, R26). -/
def clips16 (x : Int) : Bool := sat16 x ≠ x

/-- An element that is the SAT32 of `x`, with SAT when that clips (R11). -/
def Elem.saturated (x : Int) : Elem := { word := bits32 (sat32 x), sat := clips32 x, divz := false }

/-- `set SAT` and `set DIVZ` (R12): the flags are sticky (R26). -/
def State.note (sat divz : Bool) (s : State) : State :=
  { s with flags := { s.flags with sat := s.flags.sat || sat, divz := s.flags.divz || divz } }

/-- `set STATUS.BUSERR` (R63). -/
def State.noteBusErr (s : State) : State := { s with flags := { s.flags with buserr := true } }

/-- `set STATUS.HOSTERR` (R66). -/
def State.noteHostErr (b : Bool) (s : State) : State :=
  { s with flags := { s.flags with hosterr := s.flags.hosterr || b } }

/-- STATUS.BUSY (R25): a command is in flight. -/
def State.busy (s : State) : Bool := s.inflight.isSome

/-- STATUS as a host reads it (R25, R26): HOSTERR, BUSERR, DIVZ, SAT, ERR, DONE, BUSY from bit 6 down; bits 31:7
read 0. -/
def State.statusWord (s : State) : Word :=
  0#25 ++ BitVec.ofBool s.flags.hosterr ++ BitVec.ofBool s.flags.buserr ++ BitVec.ofBool s.flags.divz
    ++ BitVec.ofBool s.flags.sat ++ BitVec.ofBool s.flags.err ++ BitVec.ofBool s.flags.done
    ++ BitVec.ofBool s.busy

/-- A host write of `v` to STATUS: each of bits 6:1 that is 1 in `v` is cleared (W1C); BUSY is read-only and bits
31:7 are ignored (R25, R26). -/
def Flags.clearedBy (f : Flags) (v : Word) : Flags :=
  { done := f.done && !v.getLsbD 1
    err := f.err && !v.getLsbD 2
    sat := f.sat && !v.getLsbD 3
    divz := f.divz && !v.getLsbD 4
    buserr := f.buserr && !v.getLsbD 5
    hosterr := f.hosterr && !v.getLsbD 6 }

/-- IRQ (R46, R267): a level, CTRL.IE AND (DONE OR ERR). -/
def State.irq (s : State) : Bool := s.ie && (s.flags.done || s.flags.err)

end Sys2Proof.Machine
end

