-- ==== Sys2Proof/Machine/Ops.lean ====
section
/-! DEFINITION. The named operations over the RAMs (10_state.md R40 to R44, byte order 20_memory.md R61), and the two
ways a command ends: completion (40_control.md R121) and an error (60_exceptions.md R261, R263). -/

namespace Sys2Proof.Machine

open Sys2Proof.Config (RamId)

/-- The bytes of a word, the one at the lowest address first (R61). -/
def wordBytes (w : Word) : List Byte :=
  [w.extractLsb' 0 8, w.extractLsb' 8 8, w.extractLsb' 16 8, w.extractLsb' 24 8]

/-- The bytes of a HIST entry, the lower one first. -/
def halfBytes (h : Half) : List Byte := [h.extractLsb' 0 8, h.extractLsb' 8 8]

/-- The byte listed at an offset, if one is. -/
def Memory.find : Memory → Nat → Option Byte
  | [], _ => none
  | c :: m, a => if c.1 = a then some c.2 else Memory.find m a

/-- The cells of the bytes `bs` from offset `a` on. -/
def cellsFrom : Nat → List Byte → Memory
  | _, [] => []
  | a, b :: bs => (a, b) :: cellsFrom (a + 1) bs

/-- Writing the bytes `bs` from offset `a` on: the cells below, the new cells, the cells above. -/
def Memory.store (m : Memory) (a : Nat) (bs : List Byte) : Memory :=
  m.filter (fun c => c.1 < a) ++ cellsFrom a bs ++ m.filter (fun c => a + bs.length ≤ c.1)

/-- One RAM of the six. -/
def Rams.get (r : Rams) : RamId → Memory
  | .dmem => r.dmem
  | .hist => r.hist
  | .ola => r.ola
  | .clut => r.clut
  | .elut => r.elut
  | .ct => r.ct

/-- Replacing one RAM of the six. -/
def Rams.set (r : Rams) (id : RamId) (m : Memory) : Rams :=
  match id with
  | .dmem => { r with dmem := m }
  | .hist => { r with hist := m }
  | .ola => { r with ola := m }
  | .clut => { r with clut := m }
  | .elut => { r with elut := m }
  | .ct => { r with ct := m }

/-- The byte of a RAM at an offset: the byte written there, else the free value of its power-on (R290, U2). -/
def State.ramByte (s : State) (r : RamId) (a : Nat) : Byte :=
  ((s.ram.get r).find a).getD (Config.powerOnByte s.epoch r a)

/-- The word at an offset, little-endian (R61). -/
def State.ramWord (s : State) (r : RamId) (a : Nat) : Word :=
  s.ramByte r (a + 3) ++ s.ramByte r (a + 2) ++ s.ramByte r (a + 1) ++ s.ramByte r a

/-- Writing bytes into a RAM. -/
def State.store (r : RamId) (a : Nat) (bs : List Byte) (s : State) : State :=
  { s with ram := s.ram.set r ((s.ram.get r).store a bs) }

/-- Writing words into consecutive elements of a 32-bit RAM, from element `i` on. -/
def State.storeWords (r : RamId) (i : Nat) (ws : List Word) (s : State) : State :=
  s.store r (4 * i) (ws.flatMap wordBytes)

/-- Writing HIST[0 .. k-1]. -/
def State.storeHist (hs : List Half) (s : State) : State := s.store .hist 0 (hs.flatMap halfBytes)

/-- DMEM[i] (R40). -/
def State.dmemWord (s : State) (i : Nat) : Word := s.ramWord .dmem (4 * i)

/-- HIST[i] (R41). -/
def State.histEntry (s : State) (i : Nat) : Half := s.ramByte .hist (2 * i + 1) ++ s.ramByte .hist (2 * i)

/-- OLA[i] (R42). -/
def State.olaWord (s : State) (i : Nat) : Word := s.ramWord .ola (4 * i)

/-- CLUT[i] (R43). -/
def State.clutWord (s : State) (i : Nat) : Word := s.ramWord .clut (4 * i)

/-- ELUT[i] (R43). -/
def State.elutWord (s : State) (i : Nat) : Word := s.ramWord .elut (4 * i)

/-- LEN of a CT word, bits 28:24 (R44). -/
def ctLenField (w : Word) : Nat := (w.extractLsb' 24 5).toNat

/-- The legal CT entry of a written word (R44): bits 31:29 dropped, a LEN above 24 stored as 0. -/
def ctLegal (w : Word) : Word :=
  0#3 ++ (if ctLenField w ≤ 24 then w.extractLsb' 24 5 else 0#5) ++ w.extractLsb' 0 24

/-- The element number of CT[p][t] in its RAM (R44). -/
def ctIndex (p t : Nat) : Nat := 4096 * p + t

/-- CT[p][t] (R44). The entry is legal at every read, a power-on value too (log entry 11). -/
def State.ctWord (s : State) (p t : Nat) : Word := ctLegal (s.ramWord .ct (4 * ctIndex p t))

/-- The error codes of R261. -/
inductive ErrCode where
  | badOpcode | reservedField | badParam | notConfigured | unknownProfile | addrRange | overlap | invalidRange
  | negativeInput | unencodable | capacity | fmtTruncated | fmtBadcode
deriving DecidableEq, Repr

/-- ERRINFO.CODE of an error (R261). -/
def ErrCode.code : ErrCode → Nat
  | .badOpcode => 0x01
  | .reservedField => 0x02
  | .badParam => 0x03
  | .notConfigured => 0x04
  | .unknownProfile => 0x05
  | .addrRange => 0x06
  | .overlap => 0x07
  | .invalidRange => 0x08
  | .negativeInput => 0x09
  | .unencodable => 0x0A
  | .capacity => 0x0B
  | .fmtTruncated => 0x0C
  | .fmtBadcode => 0x0D

/-- ERRINFO after an error (R263): zext_32(CODE) | zext_32(CMD[7:0]) << 8. -/
def errinfoWord (code : Nat) (cmd : Word) : Word :=
  0#16 ++ cmd.extractLsb' 0 8 ++ BitVec.ofNat 8 code

/-- A command ends with an error (R263): ERRINFO written, ERR set, BUSY cleared, everything else unchanged. This is
AMB's whole exception entry; there is no return from it but the host's W1C of ERR (R264). -/
def State.raiseError (c : ErrCode) (s : State) : State :=
  { s with errinfo := errinfoWord c.code s.cmd, flags := { s.flags with err := true }, inflight := none }

/-- A command completes (R121): BUSY cleared, DONE set. -/
def State.complete (s : State) : State :=
  { s with flags := { s.flags with done := true }, inflight := none }

/-- The outcome of a command that ends with an error. -/
def fail (c : ErrCode) (s : State) : Host.Outcome State Fault Refusal := .next (s.raiseError c)

/-- The outcome of a command whose effect has been performed. -/
def finish (s : State) : Host.Outcome State Fault Refusal := .next s.complete

end Sys2Proof.Machine
end

