-- ==== Sys2Proof/Machine/Operands.lean ====
section
/-! DEFINITION. Operands: the operand registers (10_state.md R29, R30, read as zext_32), DMEM regions (40_control.md R123,
R124), element formats (00_scope.md R13) and the element order of R125. -/

namespace Sys2Proof.Machine

/-- SRC0 as a DMEM index. -/
def State.src0 (s : State) : Nat := zext s.ops.src0

/-- SRC1 as a DMEM index. -/
def State.src1 (s : State) : Nat := zext s.ops.src1

/-- SRC2 as a DMEM index. -/
def State.src2 (s : State) : Nat := zext s.ops.src2

/-- DST as a DMEM index. -/
def State.dst (s : State) : Nat := zext s.ops.dst

/-- COUNT. -/
def State.count (s : State) : Nat := zext s.ops.count

/-- CAP, in bytes. -/
def State.cap (s : State) : Nat := zext s.ops.cap

/-- The hop length n = zext_32(XF_N) (R30). -/
def State.hop (s : State) : Nat := zext s.ops.xfN

/-- The symbol count ROWS * COLS of EC_ENCODE and EC_DECODE, without wrap-around (R233). -/
def State.gridSize (s : State) : Nat := zext s.ops.rows * zext s.ops.cols

/-- The region test (R123), in ℤ. -/
def State.regionOk (s : State) (base len : Nat) : Bool := len = 0 || base + len ≤ s.cfg.dmemWords

/-- The overlap test (R124). -/
def overlap (b1 l1 b2 l2 : Nat) : Bool := 0 < l1 && 0 < l2 && b1 < b2 + l2 && b2 < b1 + l1

/-- ceil(n / d). -/
def ceilDiv (n d : Nat) : Nat := (n + d - 1) / d

/-- A coefficient or Q16.16 element (R13): sext_32(DMEM[i]). -/
def State.dmemInt (s : State) (i : Nat) : Int := sext (s.dmemWord i)

/-- A symbol element (R13): zext_32(DMEM[i]). -/
def State.dmemNat (s : State) (i : Nat) : Nat := zext (s.dmemWord i)

/-- A sample element (R13): sext_16(DMEM[i][15:0]). -/
def State.dmemSample (s : State) (i : Nat) : Int := sext ((s.dmemWord i).extractLsb' 0 16)

/-- Bit q of the coded stream at DMEM[base ..] (R13, R231): bit 7 - q mod 8 of stream byte q div 8. -/
def State.streamBit (s : State) (base q : Nat) : Bool :=
  (s.dmemWord (base + q / 8 / 4)).getLsbD (8 * (q / 8 % 4) + (7 - q % 8))

/-- The elements `i`, `i + 1`, ... of an element-wise command, `k` of them in increasing order (R125): element i is
computed from the state that the writes of the elements before it left, and written to dst + i. -/
def elementLoop (f : State → Nat → Elem) (dst : Nat) : Nat → Nat → State → State
  | 0, _, s => s
  | k + 1, i, s =>
    match f s i with
    | ⟨w, sat, divz⟩ => elementLoop f dst k (i + 1) ((s.storeWords .dmem (dst + i) [w]).note sat divz)

/-- All COUNT elements of an element-wise command (R125). -/
def elementWise (f : State → Nat → Elem) (s : State) : State := elementLoop f s.dst s.count 0 s

/-- The two regions of a one-source element-wise command pass (R180, R200). -/
def State.unaryRegionsOk (s : State) : Bool := s.regionOk s.src0 s.count && s.regionOk s.dst s.count

end Sys2Proof.Machine
end

