-- ==== Sys2Proof/Machine/Entropy.lean ====
section
/-! DEFINITION. The Huffman coder interface (44_entropy.md R230 to R234). -/

namespace Sys2Proof.Machine

/-- Profile p is registered (R232). -/
def State.registered (s : State) (p : Nat) : Bool := p < s.cfg.nprof && s.profv.getLsbD p

/-- LEN of CT[p][t] (R230). -/
def State.codeLen (s : State) (p t : Nat) : Nat := ctLenField (s.ctWord p t)

/-- The LEN bits of CT[p][t].CODE as a number (R230): CODE[l-1:0]. -/
def State.codeValue (s : State) (p t : Nat) : Nat :=
  ((s.ctWord p t).extractLsb' 0 24).toNat % 2 ^ s.codeLen p t

/-- The low `l` bits of `v`, the most significant first (R231). -/
def bitsMsbFirst (v : Nat) : Nat → List Bool
  | 0 => []
  | l + 1 => v.testBit l :: bitsMsbFirst v l

/-- The code word of symbol t in profile p, its first bit first (R230, R231). -/
def State.codeWord (s : State) (p t : Nat) : List Bool := bitsMsbFirst (s.codeValue p t) (s.codeLen p t)

/-- The symbol has a code word in profile p (R233). -/
def State.encodable (s : State) (p t : Nat) : Bool := t < s.cfg.nsym && s.codeLen p t ≠ 0

/-- Pass 1 of EC_ENCODE (R233) over the `k` symbols from element `i` on: the sum of their LENs, none when one of
them has no code. -/
def State.codedLength (s : State) (p : Nat) : Nat → Nat → Option Nat
  | 0, _ => some 0
  | k + 1, i =>
    if s.encodable p (s.dmemNat (s.src0 + i)) then
      (State.codedLength s p k (i + 1)).map (s.codeLen p (s.dmemNat (s.src0 + i)) + ·)
    else none

/-- The bits of pass 2 of EC_ENCODE (R233): the code words of the n symbols in order. -/
def State.codedBits (s : State) (p n : Nat) : List Bool :=
  (List.range n).flatMap (fun i => s.codeWord p (s.dmemNat (s.src0 + i)))

/-- Stream byte j of a list of bits, the bits after the last being 0 (R231). -/
def streamByte (bits : List Bool) (j : Nat) : Byte :=
  BitVec.ofBool (bits.getD (8 * j) false) ++ BitVec.ofBool (bits.getD (8 * j + 1) false)
    ++ BitVec.ofBool (bits.getD (8 * j + 2) false) ++ BitVec.ofBool (bits.getD (8 * j + 3) false)
    ++ BitVec.ofBool (bits.getD (8 * j + 4) false) ++ BitVec.ofBool (bits.getD (8 * j + 5) false)
    ++ BitVec.ofBool (bits.getD (8 * j + 6) false) ++ BitVec.ofBool (bits.getD (8 * j + 7) false)

/-- Word k of a stream (R231, R13): stream bytes 4k to 4k+3, the first in bits 7:0. -/
def streamWord (bits : List Bool) (k : Nat) : Word :=
  streamByte bits (4 * k + 3) ++ streamByte bits (4 * k + 2) ++ streamByte bits (4 * k + 1)
    ++ streamByte bits (4 * k)

/-- The words of EC_ENCODE's output for B coded bits: nwords = ceil(ceil(B/8) / 4) (R233). -/
def streamWords (bits : List Bool) : List Word :=
  (List.range (ceilDiv (ceilDiv bits.length 8) 4)).map (streamWord bits)

/-- Writing RES0, RES1 and RES2 = ROWS (R233, R234). -/
def State.setResults (res0 res1 : Nat) (s : State) : State :=
  { s with res := { res0 := BitVec.ofNat 32 res0, res1 := BitVec.ofNat 32 res1, res2 := s.ops.rows } }

/-- EC_ENCODE (R233). -/
def execEcEncode (prof : Nat) (s : State) : Host.Outcome State Fault Refusal :=
  let n := s.gridSize
  if !s.registered prof then fail .unknownProfile s
  else if !(s.regionOk s.src0 n && s.regionOk s.dst (ceilDiv s.cap 4)) then fail .addrRange s
  else if overlap s.src0 n s.dst (ceilDiv s.cap 4) then fail .overlap s
  else
    match s.codedLength prof n 0 with
    | none => fail .unencodable s
    | some b =>
      if s.cap < ceilDiv b 8 then fail .capacity s
      else
        finish ((s.storeWords .dmem s.dst (streamWords (s.codedBits prof n))).setResults (ceilDiv b 8) b)

/-- min S of R234: the least symbol whose code word has `l` bits of value `v`. -/
def State.matchCode (s : State) (p l v : Nat) : Option Nat :=
  (List.range s.cfg.nsym).find? (fun t => s.codeLen p t == l && s.codeValue p t == v)

/-- How decoding one symbol ends (R234); `pos` counts the stream bits used so far. -/
inductive SymbolEnd where
  | found (symbol pos : Nat)
  | truncated (pos : Nat)
  | badCode (pos : Nat)
deriving DecidableEq, Repr

/-- The loop of R234 for one symbol: `fuel` bits may still be read (24 at its start), `l` bits of value `v` have been
read, `pos` is the next stream bit. -/
def State.decodeSymbol (s : State) (p : Nat) : Nat → Nat → Nat → Nat → SymbolEnd
  | 0, _, _, pos => .badCode pos
  | fuel + 1, l, v, pos =>
    if 8 * s.count ≤ pos then .truncated pos
    else
      match s.matchCode p (l + 1) (2 * v + (s.streamBit s.src0 pos).toNat) with
      | some t => .found t (pos + 1)
      | none => State.decodeSymbol s p fuel (l + 1) (2 * v + (s.streamBit s.src0 pos).toNat) (pos + 1)

/-- How decoding the grid ends: the symbols decoded, the stream bits used, and the error, if there is one. -/
structure DecodeEnd where
  symbols : List Nat
  pos : Nat
  error : Option ErrCode
deriving DecidableEq, Repr

/-- R234's loop over the `k` symbols still to decode, from stream bit `pos` on. -/
def State.decodeGrid (s : State) (p : Nat) : Nat → Nat → DecodeEnd
  | 0, pos => { symbols := [], pos := pos, error := none }
  | k + 1, pos =>
    match s.decodeSymbol p 24 0 0 pos with
    | .found t pos' =>
      match State.decodeGrid s p k pos' with
      | ⟨symbols, last, error⟩ => { symbols := t :: symbols, pos := last, error := error }
    | .truncated pos' => { symbols := [], pos := pos', error := some .fmtTruncated }
    | .badCode pos' => { symbols := [], pos := pos', error := some .fmtBadcode }

/-- EC_DECODE (R234). The decoded symbols are written, RES0 to RES2 too, also when decoding ends with an error
(R263); source and destination do not overlap, so they are read from the state before (log entry 15). -/
def execEcDecode (prof : Nat) (s : State) : Host.Outcome State Fault Refusal :=
  let n := s.gridSize
  if !s.registered prof then fail .unknownProfile s
  else if !(s.regionOk s.src0 (ceilDiv s.count 4) && s.regionOk s.dst n) then fail .addrRange s
  else if overlap s.src0 (ceilDiv s.count 4) s.dst n then fail .overlap s
  else
    match s.decodeGrid prof n 0 with
    | ⟨symbols, pos, error⟩ =>
      let written := (s.storeWords .dmem s.dst (symbols.map (BitVec.ofNat 32))).setResults symbols.length pos
      match error with
      | none => finish written
      | some c => fail c written

end Sys2Proof.Machine
end

