-- ==== Sys2Proof/Machine/Rom.lean ====
section
/-! DEFINITION. The ROM functions COSQ, SINQ and HANNQ (41_transform.md R140, 10_state.md R45), computed from a
fixed-point Taylor series with 96 fraction bits (log entry 10). -/

namespace Sys2Proof.Machine

/-- 1.0 with 96 fraction bits. -/
def romOne : Nat := 2 ^ 96

/-- floor(π * 2^96). -/
def romPi : Nat := 248902613312231085230521944622

/-- Terms of an alternating Taylor series from degree `k` on, `term` being the term of degree `k` and `x2` the square
of the argument: each next term is -term * x^2 / ((k + 1)(k + 2)). -/
def taylor (x2 : Int) : Nat → Nat → Int → Int
  | 0, _, _ => 0
  | fuel + 1, k, term =>
    term + taylor x2 fuel (k + 2) (-(term * x2) / (2 ^ 96 * ((k + 1) * (k + 2) : Nat)))

/-- The angle 2π·m/M less its whole quarter turns, with 96 fraction bits. -/
def romAngle (M m : Nat) : Int := ((romPi * (4 * m % M) / (2 * M) : Nat) : Int)

/-- The whole quarter turns of the angle 2π·m/M. -/
def romQuarter (M m : Nat) : Nat := 4 * m / M % 4

/-- cos of an angle below a quarter turn, with 96 fraction bits. -/
def fixCos (x : Int) : Int := taylor (x * x / 2 ^ 96) 20 0 romOne

/-- sin of an angle below a quarter turn, with 96 fraction bits. -/
def fixSin (x : Int) : Int := taylor (x * x / 2 ^ 96) 20 1 x

/-- cos(2π·m/M) with 96 fraction bits. -/
def romCos (M m : Nat) : Int :=
  match romQuarter M m with
  | 0 => fixCos (romAngle M m)
  | 1 => -fixSin (romAngle M m)
  | 2 => -fixCos (romAngle M m)
  | _ => fixSin (romAngle M m)

/-- sin(2π·m/M) with 96 fraction bits. -/
def romSin (M m : Nat) : Int :=
  match romQuarter M m with
  | 0 => fixSin (romAngle M m)
  | 1 => fixCos (romAngle M m)
  | 2 => -fixSin (romAngle M m)
  | _ => -fixCos (romAngle M m)

/-- COSQ(M, m) = nearest(2^30 · cos(2π·m / M)), in [-2^30, 2^30] (R140). -/
def cosq (M m : Nat) : Int := clamp (rne (romCos M m) (2 ^ 66)) (-2 ^ 30) (2 ^ 30)

/-- SINQ(M, m) = nearest(2^30 · sin(2π·m / M)), in [-2^30, 2^30] (R140). -/
def sinq (M m : Nat) : Int := clamp (rne (romSin M m) (2 ^ 66)) (-2 ^ 30) (2 ^ 30)

/-- HANNQ(F, m) = nearest(2^15 · (1 - cos(2π·m / F)) / 2), in [0, 2^15] (R140). -/
def hannq (F m : Nat) : Int := clamp (rne (2 ^ 96 - romCos F m) (2 ^ 82)) 0 (2 ^ 15)

end Sys2Proof.Machine
end

