-- ==== Sys2Proof/Machine/Transform.lean ====
section
/-! DEFINITION. The transform family (41_transform.md R140 to R153): XF_RESET, the MDCT butterfly and the STFT front-end
with the overlap memories HIST and OLA. A vector is a List Int, element 0 first. -/

namespace Sys2Proof.Machine

/-- Σ f(m, v_m) over a list v_0, v_1, ..., its first index being `m`. -/
def sumFrom {α : Type} (f : Nat → α → Int) : Nat → List α → Int
  | _, [] => 0
  | m, v :: vs => f m v + sumFrom f (m + 1) vs

/-- The vector f(0), ..., f(n-1). -/
def vec {α : Type} (n : Nat) (f : Nat → α) : List α := (List.range n).map f

/-- Element i of a vector. -/
def elemAt (v : List Int) (i : Nat) : Int := v.getD i 0

/-- K(n, u)[k], the DCT-IV sum (R141). -/
def dctSum (n : Nat) (u : List Int) (k : Nat) : Int :=
  sumFrom (fun m v => v * cosq (8 * n) ((2 * m + 1) * (2 * k + 1))) 0 u

/-- The forward fold (R142): u = (-reverse(c) - d, a - reverse(b)). -/
def fold (n : Nat) (x : List Int) : List Int :=
  let h := n / 2
  vec h (fun j => -elemAt x (n + h - 1 - j) - elemAt x (n + h + j))
    ++ vec h (fun j => elemAt x j - elemAt x (n - 1 - j))

/-- The inverse unfold (R143): y = (w2, -reverse(w2), -reverse(w1), -w1). -/
def unfoldBlock (n : Nat) (w : List Int) : List Int :=
  let h := n / 2
  vec h (fun j => elemAt w (h + j)) ++ vec h (fun j => -elemAt w (n - 1 - j))
    ++ vec h (fun j => -elemAt w (h - 1 - j)) ++ vec h (fun j => -elemAt w j)

/-- The MDCT coefficients of a block x of 2n samples (R146): RNE(K(n, fold(x))[k], 2^30). -/
def mdctCoeffs (n : Nat) (x : List Int) : List Int :=
  let u := fold n x
  vec n (fun k => rne (dctSum n u k) (2 ^ 30))

/-- The 2n-vector y of MDCT_INV before SAT32, from n coefficients (R149). -/
def mdctBlock (n : Nat) (coeffs : List Int) : List Int :=
  unfoldBlock n (vec n (fun m => rne (dctSum n coeffs m * 2 ^ 8) (n * 2 ^ 30)))

/-- The windowed frame g (R152). -/
def stftWindowed (n : Nat) (x : List Int) : List Int :=
  vec (2 * n) (fun m => elemAt x m * hannq (2 * n) m)

/-- re[k] of STFT_FWD (R152). -/
def stftRe (n : Nat) (g : List Int) (k : Nat) : Int :=
  rne (sumFrom (fun m v => v * cosq (2 * n) (k * m)) 0 g) (2 ^ 45)

/-- im[k] of STFT_FWD (R152). -/
def stftIm (n : Nat) (g : List Int) (k : Nat) : Int :=
  rne (-sumFrom (fun m v => v * sinq (2 * n) (k * m)) 0 g) (2 ^ 45)

/-- The row of STFT_FWD (R151): re[0], im[0], ..., re[n], im[n]. -/
def stftRow (n : Nat) (x : List Int) : List Int :=
  let g := stftWindowed n x
  (List.range (n + 1)).flatMap (fun k => [stftRe n g k, stftIm n g k])

/-- c(k) of STFT_INV (R153). -/
def binWeight (n k : Nat) : Int := if k = 0 ∨ k = n then 1 else 2

/-- acc of STFT_INV for time index m, from the bins (re, im) (R153). -/
def stftSum (n : Nat) (bins : List (Int × Int)) (m : Nat) : Int :=
  sumFrom (fun k z => binWeight n k * (z.1 * cosq (2 * n) (k * m) - z.2 * sinq (2 * n) (k * m))) 0 bins

/-- The 2n-vector y of STFT_INV before SAT32, from n + 1 bins (R153). -/
def stftBlock (n : Nat) (bins : List (Int × Int)) : List Int :=
  vec (2 * n) (fun m => rne (stftSum n bins m * 2 ^ 8) ((2 * n : Nat) * 2 ^ 30))

/-- The hop of a forward transform (R146, R152): zeros when ZIN = 1, else n samples at SRC0. -/
def State.inputHop (s : State) (zin : Bool) (n : Nat) : List Int :=
  vec n (fun i => if zin then 0 else s.dmemSample (s.src0 + i))

/-- The block x of a forward transform: the previous hop from HIST, then this hop (R146, R152). -/
def State.inputBlock (s : State) (zin : Bool) (n : Nat) : List Int :=
  vec n (fun i => sext (s.histEntry i)) ++ s.inputHop zin n

/-- Writing this hop to HIST[0 .. n-1] (R146, R152). -/
def State.saveHop (zin : Bool) (n : Nat) (s : State) : State :=
  s.storeHist ((s.inputHop zin n).map (BitVec.ofInt 16))

/-- The n coefficients of MDCT_INV (R149). -/
def State.inputCoeffs (s : State) (n : Nat) : List Int := vec n (fun k => s.dmemInt (s.src0 + k))

/-- The n + 1 bins (re, im) of STFT_INV (R151, R153). -/
def State.inputBins (s : State) (n : Nat) : List (Int × Int) :=
  vec (n + 1) (fun k => (s.dmemInt (s.src0 + 2 * k), s.dmemInt (s.src0 + 2 * k + 1)))

/-- The output samples of the overlap-add before SAT16 (R150): RNE(OLA[i] + y[i], 2^8). -/
def State.overlapSums (s : State) (n : Nat) (y : List Int) : List Int :=
  vec n (fun i => rne (sext (s.olaWord i) + elemAt y i) (2 ^ 8))

/-- overlap_add(n, y, NOWR) (R150): the outputs from the old OLA, OLA[0 .. n-1] from y's second half, the outputs to
DMEM unless NOWR = 1, and SAT when a SAT16 clips. -/
def State.overlapAdd (n : Nat) (y : List Int) (nowr : Bool) (s : State) : State :=
  let o := s.overlapSums n y
  let s1 := (s.storeWords .ola 0 ((y.drop n).map bits32)).note (o.any clips16) false
  if nowr then s1 else s1.storeWords .dmem s.dst (o.map (fun v => bits32 (sat16 v)))

/-- The end of an inverse transform (R149, R153): SAT32 of every y[i], then the overlap-add. -/
def State.emitBlock (n : Nat) (y : List Int) (nowr : Bool) (s : State) : State :=
  (s.note (y.any clips32) false).overlapAdd n (y.map sat32) nowr

/-- The MDCT hop test (R144). -/
def State.mdctHopOk (s : State) : Bool := s.hop % 2 = 0 && 2 ≤ s.hop && s.hop ≤ s.cfg.nmax

/-- The STFT hop test (R144). -/
def State.stftHopOk (s : State) : Bool := 1 ≤ s.hop && s.hop ≤ s.cfg.nmax

/-- XF_RESET (R145): every entry of HIST and OLA becomes 0. -/
def execXfReset (s : State) : Host.Outcome State Fault Refusal :=
  finish ((s.storeHist (List.replicate s.cfg.nmax 0)).storeWords .ola 0 (List.replicate s.cfg.nmax 0))

/-- MDCT_FWD (R146). -/
def execMdctFwd (zin : Bool) (s : State) : Host.Outcome State Fault Refusal :=
  if !s.mdctHopOk then fail .badParam s
  else if !((zin || s.regionOk s.src0 s.hop) && s.regionOk s.dst s.hop) then fail .addrRange s
  else
    finish ((s.saveHop zin s.hop).storeWords .dmem s.dst
      ((mdctCoeffs s.hop (s.inputBlock zin s.hop)).map bits32))

/-- MDCT_INV (R149). -/
def execMdctInv (nowr : Bool) (s : State) : Host.Outcome State Fault Refusal :=
  if !s.mdctHopOk then fail .badParam s
  else if !(s.regionOk s.src0 s.hop && (nowr || s.regionOk s.dst s.hop)) then fail .addrRange s
  else finish (s.emitBlock s.hop (mdctBlock s.hop (s.inputCoeffs s.hop)) nowr)

/-- STFT_FWD (R152). -/
def execStftFwd (zin : Bool) (s : State) : Host.Outcome State Fault Refusal :=
  if !s.stftHopOk then fail .badParam s
  else if !((zin || s.regionOk s.src0 s.hop) && s.regionOk s.dst (2 * s.hop + 2)) then fail .addrRange s
  else
    finish ((s.saveHop zin s.hop).storeWords .dmem s.dst
      ((stftRow s.hop (s.inputBlock zin s.hop)).map bits32))

/-- STFT_INV (R153). -/
def execStftInv (nowr : Bool) (s : State) : Host.Outcome State Fault Refusal :=
  if !s.stftHopOk then fail .badParam s
  else if !(s.regionOk s.src0 (2 * s.hop + 2) && (nowr || s.regionOk s.dst s.hop)) then fail .addrRange s
  else finish (s.emitBlock s.hop (stftBlock s.hop (s.inputBins s.hop)) nowr)

end Sys2Proof.Machine
end

