-- ==== Sys2Proof/Machine/Reset.lean ====
section
/-! DEFINITION. The hard reset and the soft reset (70_reset_and_hazards.md R290 to R292). -/

namespace Sys2Proof.Machine

/-- The DMEM region that a command names as its destination (R291, 30_encoding.md R93), as (base, length). EC_ENCODE
names the nwords of its stream, which are defined when its source region passes and every symbol has a code. -/
def State.destRegion (s : State) : Instr → Nat × Nat
  | .nop | .xfReset | .qConfig | .sConfig => (0, 0)
  | .mdctFwd _ => (s.dst, s.hop)
  | .mdctInv nowr => (s.dst, if nowr then 0 else s.hop)
  | .stftFwd _ => (s.dst, 2 * s.hop + 2)
  | .stftInv nowr => (s.dst, if nowr then 0 else s.hop)
  | .quant | .dequant | .compand | .expand | .scale | .recip | .mupd | .shift | .unshift => (s.dst, s.count)
  | .ecEncode prof =>
    if prof < s.cfg.nprof && s.regionOk s.src0 s.gridSize then
      match s.codedLength prof s.gridSize 0 with
      | some b => (s.dst, ceilDiv (ceilDiv b 8) 4)
      | none => (s.dst, 0)
    else (s.dst, 0)
  | .ecDecode _ => (s.dst, s.gridSize)

/-- How many entries of HIST, from 0 on, a command writes (R291). -/
def State.destHist (s : State) : Instr → Nat
  | .xfReset => s.cfg.nmax
  | .mdctFwd _ | .stftFwd _ => s.hop
  | .nop | .mdctInv _ | .stftInv _ | .qConfig | .quant | .dequant | .compand | .expand | .sConfig | .scale | .recip
  | .mupd | .shift | .unshift | .ecEncode _ | .ecDecode _ => 0

/-- How many entries of OLA, from 0 on, a command writes (R291). -/
def State.destOla (s : State) : Instr → Nat
  | .xfReset => s.cfg.nmax
  | .mdctInv _ | .stftInv _ => s.hop
  | .nop | .mdctFwd _ | .stftFwd _ | .qConfig | .quant | .dequant | .compand | .expand | .sConfig | .scale | .recip
  | .mupd | .shift | .unshift | .ecEncode _ | .ecDecode _ => 0

/-- `len` bytes of a RAM from offset `a` on take unspecified values, drawn once (R291, U4). -/
def State.scramble (r : Config.RamId) (a len : Nat) (s : State) : State :=
  { s.store r a ((List.range len).map (fun k => Config.freeByte (s.draws + k))) with draws := s.draws + len }

/-- The cancelled command's destinations take unspecified values (R291 (1)), as far as they exist (log entry 5). -/
def State.cancelCommand (i : Instr) (s : State) : State :=
  let region := s.destRegion i
  let words := min region.2 (s.cfg.dmemWords - region.1)
  let s1 := s.scramble .dmem (4 * region.1) (4 * words)
  let s2 := s1.scramble .hist 0 (2 * min (s.destHist i) s.cfg.nmax)
  s2.scramble .ola 0 (4 * min (s.destOla i) s.cfg.nmax)

/-- Cancelling the in-flight command, if there is one. A word that decodes to no command names no destination. -/
def State.cancelInflight (s : State) : State :=
  match s.inflight with
  | none => s
  | some w =>
    match decode w with
    | .ok i => s.cancelCommand i
    | .error _ => s

/-- Every register at its reset value, no command in flight (R290, R291 (2)). -/
def State.resetRegisters (s : State) : State :=
  { s with
    ie := false
    flags := Flags.reset
    errinfo := 0
    cmd := 0
    ops := OperandRegs.reset
    shiftv := 0
    res := ResultRegs.reset
    quant := QuantRegs.reset
    scl := ScaleRegs.reset
    profv := 0
    inflight := none }

/-- The soft reset (R291). -/
def State.softReset (s : State) : State := s.cancelInflight.resetRegisters

/-- The hard reset (R290): registers at their reset values, an in-flight command ended without effect, and every
RAM entry a new unspecified value. -/
def State.hardReset (s : State) : State :=
  { s.resetRegisters with ram := Rams.reset, epoch := s.epoch + 1 }

end Sys2Proof.Machine
end

