-- ==== Sys2Proof/Machine/Nmf.lean ====
section
/-! DEFINITION. The element-wise NMF unit and the shift scalar (42_nmf_scaling.md R180 to R187). -/

namespace Sys2Proof.Machine

/-- The reciprocal of a Q16.16 value (R182's pseudocode). DEDUCED (log entry 22): so x = 2, where 2^32/x is 2^31, gives
2^31 - 1 with SAT, although R182's flags sentence names SAT for |x| = 1 only. -/
def recipOf (x : Int) : Elem :=
  if x = 0 then { word := bits32 (2 ^ 31 - 1), sat := false, divz := true }
  else Elem.saturated (rne (2 ^ 32) x)

/-- RECIP's element i (R182). -/
def recipElem (s : State) (i : Nat) : Elem := recipOf (s.dmemInt (s.src0 + i))

/-- RECIP (R182). -/
def execRecip (s : State) : Host.Outcome State Fault Refusal :=
  if !s.unaryRegionsOk then fail .addrRange s
  else finish (elementWise recipElem s)

/-- The multiplicative factor a·b / c (R184). -/
def mupdOf (a b c : Int) : Elem :=
  if c = 0 then
    if b = 0 then { word := bits32 0, sat := false, divz := false }
    else if a = 0 then { word := bits32 0, sat := false, divz := true }
    else { word := bits32 (2 ^ 31 - 1), sat := false, divz := true }
  else Elem.saturated (rne (a * b) c)

/-- MUPD's element i (R184). -/
def mupdElem (s : State) (i : Nat) : Elem :=
  mupdOf (s.dmemInt (s.src0 + i)) (s.dmemInt (s.src1 + i)) (s.dmemInt (s.src2 + i))

/-- Pass 1 of MUPD (R183, R184): some element of a source is negative. -/
def State.anyNegative (s : State) : Bool :=
  (List.range s.count).any (fun i =>
    s.dmemInt (s.src0 + i) < 0 || s.dmemInt (s.src1 + i) < 0 || s.dmemInt (s.src2 + i) < 0)

/-- MUPD (R184). -/
def execMupd (s : State) : Host.Outcome State Fault Refusal :=
  if !(s.regionOk s.src0 s.count && s.regionOk s.src1 s.count && s.regionOk s.src2 s.count
      && s.regionOk s.dst s.count) then fail .addrRange s
  else if s.anyNegative then fail .negativeInput s
  else finish (elementWise mupdElem s)

/-- The least of f(0), ..., f(k). -/
def minUpTo (f : Nat → Int) : Nat → Int
  | 0 => f 0
  | k + 1 => min (minUpTo f k) (f (k + 1))

/-- Pass 1 of SHIFT (R183, R186): the shift scalar |min| of the COUNT inputs, for COUNT > 0. -/
def State.shiftScalar (s : State) : Nat :=
  (minUpTo (fun i => s.dmemInt (s.src0 + i)) (s.count - 1)).natAbs

/-- Element i of SHIFT's second pass, for a shift scalar (R186). -/
def shiftElem (scalar : Nat) (s : State) (i : Nat) : Elem :=
  Elem.saturated (s.dmemInt (s.src0 + i) + scalar)

/-- SHIFT (R186). -/
def execShift (s : State) : Host.Outcome State Fault Refusal :=
  if s.count = 0 then fail .badParam s
  else if !s.unaryRegionsOk then fail .addrRange s
  else finish { elementWise (shiftElem s.shiftScalar) s with shiftv := BitVec.ofNat 32 s.shiftScalar }

/-- UNSHIFT's element i (R187). -/
def unshiftElem (s : State) (i : Nat) : Elem :=
  Elem.saturated (s.dmemInt (s.src0 + i) - zext s.shiftv)

/-- UNSHIFT (R187). -/
def execUnshift (s : State) : Host.Outcome State Fault Refusal :=
  if !s.unaryRegionsOk then fail .addrRange s
  else finish (elementWise unshiftElem s)

end Sys2Proof.Machine
end

