-- ==== Sys2Proof/Machine/Quant.lean ====
section
/-! DEFINITION. The quantizer, the compander and the linear remap (43_quant_compand.md R200 to R217). -/

namespace Sys2Proof.Machine

/-- Q_CONFIG (R201). -/
def execQConfig (s : State) : Host.Outcome State Fault Refusal :=
  let mn := sext s.quant.qMin
  let mx := sext s.quant.qMax
  let levels := zext s.quant.qLevels
  if !(2 ≤ levels && levels ≤ 65536) then fail .badParam s
  else if !(mn < mx) then fail .invalidRange s
  else
    finish { s with quant := { s.quant with
      qRcp := bits64 (rne (((levels : Int) - 1) * 2 ^ 32) (mx - mn))
      qStep := bits64 (rne ((mx - mn) * 2 ^ 32) ((levels : Int) - 1))
      qValid := true } }

/-- QUANT's index of an input x (R202). -/
def quantIndex (q : QuantRegs) (x : Int) : Int :=
  clamp (rne ((x - sext q.qMin) * zext q.qRcp) (2 ^ 32)) 0 ((zext q.qLevels : Int) - 1)

/-- QUANT's element i (R202). -/
def quantElem (s : State) (i : Nat) : Elem :=
  { word := bits32 (quantIndex s.quant (s.dmemInt (s.src0 + i))), sat := false, divz := false }

/-- QUANT (R202). -/
def execQuant (s : State) : Host.Outcome State Fault Refusal :=
  if !s.quant.qValid then fail .notConfigured s
  else if !s.unaryRegionsOk then fail .addrRange s
  else finish (elementWise quantElem s)

/-- DEQUANT's value of an index before SAT32 (R203). -/
def dequantValue (q : QuantRegs) (idx : Nat) : Int :=
  sext q.qMin + rne ((idx : Int) * zext q.qStep) (2 ^ 32)

/-- DEQUANT's element i (R203). -/
def dequantElem (s : State) (i : Nat) : Elem := Elem.saturated (dequantValue s.quant (s.dmemNat (s.src0 + i)))

/-- DEQUANT (R203). -/
def execDequant (s : State) : Host.Outcome State Fault Refusal :=
  if !s.quant.qValid then fail .notConfigured s
  else if !s.unaryRegionsOk then fail .addrRange s
  else finish (elementWise dequantElem s)

/-- The table value at a magnitude a ≤ 65536 (R210): segment a >> D, linear in the fraction, D = 16 - S. -/
def lutMagnitude (lutLog2 : Nat) (t : Nat → Int) (a : Nat) : Int :=
  let d := 16 - lutLog2
  let seg := a / 2 ^ d
  let fr := a % 2 ^ d
  if fr = 0 then t seg else t seg + rne ((t (seg + 1) - t seg) * fr) (2 ^ d)

/-- lut(T, x) before its SAT32 (R210): |x| limited to 65536, the table value, the sign of x. -/
def lutValue (lutLog2 : Nat) (t : Nat → Int) (x : Int) : Int :=
  let m := lutMagnitude lutLog2 t (min x.natAbs 65536)
  if x < 0 then -m else m

/-- lut(T, x) (R210): SAT when |x| exceeds 65536 or the result clips. -/
def lutElem (lutLog2 : Nat) (t : Nat → Int) (x : Int) : Elem :=
  { Elem.saturated (lutValue lutLog2 t x) with
    sat := decide (65536 < x.natAbs) || clips32 (lutValue lutLog2 t x) }

/-- COMPAND's element i (R211): R210 on whatever words CLUT holds, unchecked (R213). -/
def compandElem (s : State) (i : Nat) : Elem :=
  lutElem s.cfg.lutLog2 (fun j => sext (s.clutWord j)) (s.dmemInt (s.src0 + i))

/-- COMPAND (R211). -/
def execCompand (s : State) : Host.Outcome State Fault Refusal :=
  if !s.unaryRegionsOk then fail .addrRange s
  else finish (elementWise compandElem s)

/-- EXPAND's element i (R212): R210 on whatever words ELUT holds, unchecked (R213). -/
def expandElem (s : State) (i : Nat) : Elem :=
  lutElem s.cfg.lutLog2 (fun j => sext (s.elutWord j)) (s.dmemInt (s.src0 + i))

/-- EXPAND (R212). -/
def execExpand (s : State) : Host.Outcome State Fault Refusal :=
  if !s.unaryRegionsOk then fail .addrRange s
  else finish (elementWise expandElem s)

/-- S_CONFIG (R216). -/
def execSConfig (s : State) : Host.Outcome State Fault Refusal :=
  let om := sext s.scl.oldMin
  let oM := sext s.scl.oldMax
  let nm := sext s.scl.newMin
  let nM := sext s.scl.newMax
  if oM = om then fail .invalidRange s
  else finish { s with scl := { s.scl with k := bits64 (rne ((nM - nm) * 2 ^ 31) (oM - om)), sValid := true } }

/-- SCALE's value of an input x before SAT32 (R217). -/
def scaleValue (c : ScaleRegs) (x : Int) : Int :=
  sext c.newMin + rne ((x - sext c.oldMin) * sext c.k) (2 ^ 31)

/-- SCALE's element i (R217). -/
def scaleElem (s : State) (i : Nat) : Elem := Elem.saturated (scaleValue s.scl (s.dmemInt (s.src0 + i)))

/-- SCALE (R217). -/
def execScale (s : State) : Host.Outcome State Fault Refusal :=
  if !s.scl.sValid then fail .notConfigured s
  else if !s.unaryRegionsOk then fail .addrRange s
  else finish (elementWise scaleElem s)

end Sys2Proof.Machine
end

