-- ==== Sys2Proof/Machine/Dispatch.lean ====
section
/-! DEFINITION. The meaning of every command: one arm for each constructor of Instr, in the opcode map's order. -/

namespace Sys2Proof.Machine

open Sys2Proof

def exec (i : Instr) (s : State) : Host.Outcome State Fault Refusal :=
  match i with
  | .nop => Sys2Proof.Machine.execNop s
  | .xfReset => Sys2Proof.Machine.execXfReset s
  | .mdctFwd zin => Sys2Proof.Machine.execMdctFwd zin s
  | .mdctInv nowr => Sys2Proof.Machine.execMdctInv nowr s
  | .stftFwd zin => Sys2Proof.Machine.execStftFwd zin s
  | .stftInv nowr => Sys2Proof.Machine.execStftInv nowr s
  | .qConfig => Sys2Proof.Machine.execQConfig s
  | .quant => Sys2Proof.Machine.execQuant s
  | .dequant => Sys2Proof.Machine.execDequant s
  | .compand => Sys2Proof.Machine.execCompand s
  | .expand => Sys2Proof.Machine.execExpand s
  | .sConfig => Sys2Proof.Machine.execSConfig s
  | .scale => Sys2Proof.Machine.execScale s
  | .recip => Sys2Proof.Machine.execRecip s
  | .mupd => Sys2Proof.Machine.execMupd s
  | .shift => Sys2Proof.Machine.execShift s
  | .unshift => Sys2Proof.Machine.execUnshift s
  | .ecEncode prof => Sys2Proof.Machine.execEcEncode prof s
  | .ecDecode prof => Sys2Proof.Machine.execEcDecode prof s

end Sys2Proof.Machine
end

