-- ==== Sys2Proof/Machine/Sequencer.lean ====
section
/-! DEFINITION. The sequencer's step (40_control.md R121): it decodes the in-flight word and performs the command. -/

namespace Sys2Proof.Machine

/-- The error code of a word that decodes to no command (R91, R261). -/
def decodeErrorCode : DecodeError → ErrCode
  | .badOpcode => .badOpcode
  | .reservedField => .reservedField

/-- Performing the in-flight word `w` (R121). -/
def runWord (w : Word) (s : State) : Host.Outcome State Fault Refusal :=
  match decode w with
  | .ok i => exec i s
  | .error e => fail (decodeErrorCode e) s

/-- A turn of the sequencer: the in-flight command, if there is one; when idle AMB changes no state (R275). -/
def sequencerTurn (s : State) : Host.Outcome State Fault Refusal :=
  match s.inflight with
  | none => .next s
  | some w => runWord w s

/-- A host write of `w` to CMD while idle (R28, R120): CMD stores it and it becomes the in-flight command. -/
def State.issue (w : Word) (s : State) : State := { s with cmd := w, inflight := some w }

end Sys2Proof.Machine
end

