-- ==== Sys2Proof/Machine/HostBus.lean ====
section
/-! DEFINITION. Host bus accesses (20_memory.md R60 to R67): the address map, the registers (10_state.md R20 to R38), and
what a read and a write do, idle and while a command runs. -/

namespace Sys2Proof.Machine

/-- The registers of R20's map. -/
inductive Reg where
  | id | version | param0 | param1 | ctrl | status | errinfo | cmd
  | src0 | src1 | src2 | dst | count | rows | cols | cap | xfN | shiftv | res0 | res1 | res2
  | qMin | qMax | qLevels | qRcpLo | qRcpHi | qStepLo | qStepHi | qValid
  | sOldMin | sOldMax | sNewMin | sNewMax | sKLo | sKHi | sValid | ecProfv
deriving DecidableEq, Repr

/-- The byte offset of a register (R20). -/
def Reg.offset : Reg → Nat
  | .id => 0x000
  | .version => 0x004
  | .param0 => 0x008
  | .param1 => 0x00C
  | .ctrl => 0x010
  | .status => 0x014
  | .errinfo => 0x018
  | .cmd => 0x01C
  | .src0 => 0x020
  | .src1 => 0x024
  | .src2 => 0x028
  | .dst => 0x02C
  | .count => 0x030
  | .rows => 0x034
  | .cols => 0x038
  | .cap => 0x03C
  | .xfN => 0x040
  | .shiftv => 0x044
  | .res0 => 0x048
  | .res1 => 0x04C
  | .res2 => 0x050
  | .qMin => 0x060
  | .qMax => 0x064
  | .qLevels => 0x068
  | .qRcpLo => 0x06C
  | .qRcpHi => 0x070
  | .qStepLo => 0x074
  | .qStepHi => 0x078
  | .qValid => 0x07C
  | .sOldMin => 0x080
  | .sOldMax => 0x084
  | .sNewMin => 0x088
  | .sNewMax => 0x08C
  | .sKLo => 0x090
  | .sKHi => 0x094
  | .sValid => 0x098
  | .ecProfv => 0x0A0

/-- All registers of R20's map. -/
def Reg.all : List Reg :=
  [.id, .version, .param0, .param1, .ctrl, .status, .errinfo, .cmd,
   .src0, .src1, .src2, .dst, .count, .rows, .cols, .cap, .xfN, .shiftv, .res0, .res1, .res2]
  ++ [.qMin, .qMax, .qLevels, .qRcpLo, .qRcpHi, .qStepLo, .qStepHi, .qValid,
   .sOldMin, .sOldMax, .sNewMin, .sNewMax, .sKLo, .sKHi, .sValid, .ecProfv]

/-- The register at an offset, if one is there (R20). -/
def Reg.ofOffset (a : Nat) : Option Reg := Reg.all.find? (fun r => r.offset == a)

/-- What a mapped offset names (R62). -/
inductive Target where
  | reg (r : Reg)
  /-- An offset of 0x000 to 0x0FF that names no register (R38). -/
  | reserved
  | hist (i : Nat)
  | ola (i : Nat)
  | clut (i : Nat)
  | elut (i : Nat)
  | ct (p t : Nat)
  | dmem (i : Nat)
deriving DecidableEq, Repr

/-- Element number (a - lo) / 4 of a range of the map, if the element is mapped. -/
def mappedElem (a lo entries : Nat) (t : Nat → Target) : Option Target :=
  if (a - lo) / 4 < entries then some (t ((a - lo) / 4)) else none

/-- The address map of R62 for an offset of the window; none is an unmapped offset. -/
def target (p : Config.Params) (a : Nat) : Option Target :=
  if a < 0x00100 then
    match Reg.ofOffset a with
    | some r => some (.reg r)
    | none => some .reserved
  else if a < 0x04000 then none
  else if a < 0x08000 then mappedElem a 0x04000 p.nmax .hist
  else if a < 0x0C000 then mappedElem a 0x08000 p.nmax .ola
  else if a < 0x0E000 then mappedElem a 0x0C000 (2 ^ p.lutLog2 + 1) .clut
  else if a < 0x10000 then mappedElem a 0x0E000 (2 ^ p.lutLog2 + 1) .elut
  else if a < 0x20000 then
    let i := (a - 0x10000) / 4
    if i / 4096 < p.nprof && i % 4096 < p.nsym then some (.ct (i / 4096) (i % 4096)) else none
  else if a < 0x60000 then mappedElem a 0x20000 p.dmemWords .dmem
  else none

/-- What a host access reaches (R63): only an aligned 32-bit access at a mapped offset is served. -/
def served (p : Config.Params) (a width : Nat) : Option Target :=
  if width = 4 && a % 4 = 0 then target p a else none

/-- ID (R22). -/
def idWord : Word := 0x464D4E41

/-- VERSION (R22). -/
def versionWord : Word := 0x00010000

/-- PARAM0 (R23). -/
def param0Word (p : Config.Params) : Word :=
  0#9 ++ BitVec.ofNat 3 p.nprof ++ BitVec.ofNat 4 p.lutLog2 ++ BitVec.ofNat 16 p.nmax

/-- PARAM1 (R23). -/
def param1Word (p : Config.Params) : Word :=
  0#2 ++ BitVec.ofNat 13 p.nsym ++ BitVec.ofNat 17 p.dmemWords

/-- A one-bit register: the bit at 0, the other bits 0. -/
def bitWord (b : Bool) : Word := 0#31 ++ BitVec.ofBool b

/-- What a host reads from a register (R22 to R37). -/
def State.readReg (s : State) : Reg → Word
  | .id => idWord
  | .version => versionWord
  | .param0 => param0Word s.cfg
  | .param1 => param1Word s.cfg
  | .ctrl => bitWord s.ie
  | .status => s.statusWord
  | .errinfo => s.errinfo
  | .cmd => s.cmd
  | .src0 => s.ops.src0
  | .src1 => s.ops.src1
  | .src2 => s.ops.src2
  | .dst => s.ops.dst
  | .count => s.ops.count
  | .rows => s.ops.rows
  | .cols => s.ops.cols
  | .cap => s.ops.cap
  | .xfN => s.ops.xfN
  | .shiftv => s.shiftv
  | .res0 => s.res.res0
  | .res1 => s.res.res1
  | .res2 => s.res.res2
  | .qMin => s.quant.qMin
  | .qMax => s.quant.qMax
  | .qLevels => s.quant.qLevels
  | .qRcpLo => s.quant.qRcp.extractLsb' 0 32
  | .qRcpHi => s.quant.qRcp.extractLsb' 32 32
  | .qStepLo => s.quant.qStep.extractLsb' 0 32
  | .qStepHi => s.quant.qStep.extractLsb' 32 32
  | .qValid => bitWord s.quant.qValid
  | .sOldMin => s.scl.oldMin
  | .sOldMax => s.scl.oldMax
  | .sNewMin => s.scl.newMin
  | .sNewMax => s.scl.newMax
  | .sKLo => s.scl.k.extractLsb' 0 32
  | .sKHi => s.scl.k.extractLsb' 32 32
  | .sValid => bitWord s.scl.sValid
  | .ecProfv => s.profv

/-- What a host reads from a mapped offset while idle (R63). -/
def State.readTarget (s : State) : Target → Word
  | .reg r => s.readReg r
  | .reserved => 0
  | .hist i => bits32 (sext (s.histEntry i))
  | .ola i => s.olaWord i
  | .clut i => s.clutWord i
  | .elut i => s.elutWord i
  | .ct p t => s.ctWord p t
  | .dmem i => s.dmemWord i

/-- The offset names an element of a RAM. -/
def Target.isRam : Target → Bool
  | .reg _ | .reserved => false
  | .hist _ | .ola _ | .clut _ | .elut _ | .ct _ _ | .dmem _ => true

/-- A host read at a window offset (R63, R66): the value goes to rdata. An access that is not served reads 0 and
sets BUSERR; a RAM read while a command runs is a free draw (U3). -/
def State.hostRead (a width : Nat) (s : State) : State :=
  match served s.cfg a width with
  | none => { s.noteBusErr with rdata := 0 }
  | some t =>
    if s.busy && t.isRam then { s with rdata := Config.freeWord s.draws, draws := s.draws + 1 }
    else { s with rdata := s.readTarget t }

/-- A host write to CTRL (R24): a 1 in SRST is a soft reset, which clears IE too (log entry 14); else IE is stored. -/
def State.writeCtrl (v : Word) (s : State) : State :=
  if v.getLsbD 1 then s.softReset else { s with ie := v.getLsbD 0 }

/-- A host write to STATUS (R25, R26): W1C. -/
def State.writeStatus (v : Word) (s : State) : State := { s with flags := s.flags.clearedBy v }

/-- EC_PROFV as stored (R37): bits P_NPROF to 31 read 0 and ignore writes. -/
def profvMasked (p : Config.Params) (v : Word) : Word := v &&& BitVec.ofNat 32 (2 ^ p.nprof - 1)

/-- A host write to a register while idle (R24 to R37, R67); the RO registers ignore it. -/
def State.writeReg (v : Word) (s : State) : Reg → State
  | .ctrl => s.writeCtrl v
  | .status => s.writeStatus v
  | .cmd => s.issue v
  | .src0 => { s with ops := { s.ops with src0 := v } }
  | .src1 => { s with ops := { s.ops with src1 := v } }
  | .src2 => { s with ops := { s.ops with src2 := v } }
  | .dst => { s with ops := { s.ops with dst := v } }
  | .count => { s with ops := { s.ops with count := v } }
  | .rows => { s with ops := { s.ops with rows := v } }
  | .cols => { s with ops := { s.ops with cols := v } }
  | .cap => { s with ops := { s.ops with cap := v } }
  | .xfN => { s with ops := { s.ops with xfN := v } }
  | .shiftv => { s with shiftv := v }
  | .qMin => { s with quant := { s.quant with qMin := v, qValid := false } }
  | .qMax => { s with quant := { s.quant with qMax := v, qValid := false } }
  | .qLevels => { s with quant := { s.quant with qLevels := v, qValid := false } }
  | .sOldMin => { s with scl := { s.scl with oldMin := v, sValid := false } }
  | .sOldMax => { s with scl := { s.scl with oldMax := v, sValid := false } }
  | .sNewMin => { s with scl := { s.scl with newMin := v, sValid := false } }
  | .sNewMax => { s with scl := { s.scl with newMax := v, sValid := false } }
  | .ecProfv => { s with profv := profvMasked s.cfg v }
  | .id | .version | .param0 | .param1 | .errinfo | .res0 | .res1 | .res2 | .qRcpLo | .qRcpHi | .qStepLo | .qStepHi
  | .qValid | .sKLo | .sKHi | .sValid => s

/-- A host write to a mapped offset while idle (R63). -/
def State.writeTarget (v : Word) (s : State) : Target → State
  | .reg r => s.writeReg v r
  | .reserved => s
  | .hist i => s.store .hist (2 * i) (halfBytes (v.extractLsb' 0 16))
  | .ola i => s.storeWords .ola i [v]
  | .clut i => s.storeWords .clut i [v]
  | .elut i => s.storeWords .elut i [v]
  | .ct p t => s.storeWords .ct (ctIndex p t) [ctLegal v]
  | .dmem i => s.storeWords .dmem i [v]

/-- A write that is ignored because a command runs sets HOSTERR (R66 (d), U10), one to a read-only register too. For
the reserved offsets the spec's rulings differ (U8), and the flag is a free value (log entry 12). -/
def busyWriteFlags : Target → Bool
  | .reserved => Config.reservedBusyWriteFlags
  | .reg _ | .hist _ | .ola _ | .clut _ | .elut _ | .ct _ _ | .dmem _ => true

/-- A host write at a window offset (R63, R66): not served, it changes nothing and sets BUSERR; while a command
runs only CTRL and STATUS are written. -/
def State.hostWrite (a width : Nat) (v : Word) (s : State) : State :=
  match served s.cfg a width with
  | none => s.noteBusErr
  | some (.reg .ctrl) => s.writeCtrl v
  | some (.reg .status) => s.writeStatus v
  | some t => if s.busy then s.noteHostErr (busyWriteFlags t) else s.writeTarget v t

/-- The window offset of a platform address, if it lies in the 512 KiB from P_BASE (R60, log entry 18). -/
def windowOffset (p : Config.Params) (addr : Nat) : Option Nat :=
  if p.base ≤ addr && addr < p.base + 0x80000 then some (addr - p.base) else none

/-- A host bus access (R15, R63). One that does not address the window is not AMB's. -/
def State.hostAccess (x : Access) (s : State) : State :=
  match windowOffset s.cfg x.addr with
  | none => s
  | some a =>
    match x.op with
    | .read => s.hostRead a x.width
    | .write v => s.hostWrite a x.width v

end Sys2Proof.Machine
end

