-- ==== Sys2Proof/Machine/Step.lean ====
section
/-! DEFINITION. One step of AMB (60_exceptions.md R268): one host access, one hard reset, or one turn of the sequencer. -/

namespace Sys2Proof.Machine

/-- The next event of the agenda happens. With nothing on the agenda the sequencer moves: a command in flight is
eventually completed (R121, R300), and an idle AMB changes no state (R275). -/
def step (s : State) : Host.Outcome State Fault Refusal :=
  match s.agenda with
  | [] => sequencerTurn s
  | .sequencer :: rest => sequencerTurn { s with agenda := rest }
  | .bus x :: rest => .next (({ s with agenda := rest } : State).hostAccess x)
  | .hardReset :: rest => .next (({ s with agenda := rest } : State).hardReset)

/-- The host's question: `s` with a command issued, its word being the `nbits` low bits of `w`, and the sequencer
next. It stands for the host's write to CMD (R120, log entry 16). -/
def State.withFetchWord (s : State) (nbits w : Nat) : State :=
  { s.issue (BitVec.ofNat 32 (w % 2 ^ nbits)) with agenda := .sequencer :: s.agenda }

end Sys2Proof.Machine
end

