-- ==== Sys2Proof/Machine/HostScript.lean ====
section
/-! DEFINITION. The host-sequence syntax of 30_encoding.md R97 and R98, the loading of the compander's tables
(43_quant_compand.md R213) and the whole-channel host sequences of 41_transform.md R160 and R161, as events for the
agenda. -/

namespace Sys2Proof.Machine

open Sys2Proof.Config (Params)

/-- MemWrite(a, 4, v) at a window offset (R97). -/
def wrAt (p : Params) (a : Nat) (v : Word) : Event := .bus { addr := p.base + a, width := 4, op := .write v }

/-- MemRead(a, 4) at a window offset (R97). -/
def rdAt (p : Params) (a : Nat) : Event := .bus { addr := p.base + a, width := 4, op := .read }

/-- The window offset of what a target names (R20, R62); a reserved offset has no one address, 0x0FC stands for it. -/
def Target.offset : Target → Nat
  | .reg r => r.offset
  | .reserved => 0x0FC
  | .hist i => 0x04000 + 4 * i
  | .ola i => 0x08000 + 4 * i
  | .clut i => 0x0C000 + 4 * i
  | .elut i => 0x0E000 + 4 * i
  | .ct p t => 0x10000 + 4 * (4096 * p + t)
  | .dmem i => 0x20000 + 4 * i

/-- `wr NAME, value` (R97). -/
def wr (p : Params) (t : Target) (v : Word) : Event := wrAt p t.offset v

/-- `rd NAME` (R97). -/
def rd (p : Params) (t : Target) : Event := rdAt p t.offset

/-- `cmd MNEMONIC` (R97): one write of the command word to CMD. -/
def cmdEvent (p : Params) (i : Instr) : Event := wr p (.reg .cmd) (encode i)

/-- `run MNEMONIC` (R98): the command, then `wait`. The sequencer's turn ends the wait at its first read. -/
def runScript (p : Params) (i : Instr) : List Event := [cmdEvent p i, .sequencer, rd p (.reg .status)]

/-- `vec SRC, DST, COUNT` (R98). -/
def vecScript (p : Params) (src dst count : Word) : List Event :=
  [wr p (.reg .src0) src, wr p (.reg .dst) dst, wr p (.reg .count) count]

/-- `clr` (R98). -/
def clrScript (p : Params) : List Event := [wr p (.reg .status) 0x7E]

/-- `check` (R98): the read of STATUS; the test of its bit 2 is the host's. -/
def checkScript (p : Params) : List Event := [rd p (.reg .status)]

/-- Loading CLUT and ELUT (R213, R293 (3)): one write for each of the 2^S + 1 entries of either table. -/
def loadTables (p : Params) (clut elut : Nat → Int) : List Event :=
  (List.range (2 ^ p.lutLog2 + 1)).map (fun i => wr p (.clut i) (bits32 (clut i)))
    ++ (List.range (2 ^ p.lutLog2 + 1)).map (fun i => wr p (.elut i) (bits32 (elut i)))

/-- padding of R160: the zeros that make the length a multiple of the hop. -/
def paddingOf (len n : Nat) : Nat := (n - len % n) % n

/-- The writes of block j of a signal to DMEM[src ..], 0 beyond its end (R160). -/
def putBlock (p : Params) (samples : List Int) (n j src : Nat) : List Event :=
  (List.range n).map (fun i => wr p (.dmem (src + i)) (bits32 (samples.getD (j * n + i) 0)))

/-- The forward transform of a whole channel (R160): `fwd` is MDCT_FWD or STFT_FWD, row j of the M + 1 rows goes to
DMEM[row + j * rowWords]. -/
def forwardChannel (p : Params) (fwd : Bool → Instr) (n : Nat) (samples : List Int) (src row rowWords : Nat) :
    List Event :=
  let blocks := (samples.length + paddingOf samples.length n) / n
  [wr p (.reg .xfN) (BitVec.ofNat 32 n)] ++ runScript p .xfReset
    ++ (List.range blocks).flatMap (fun j =>
      putBlock p samples n j src ++ [wr p (.reg .src0) (BitVec.ofNat 32 src),
        wr p (.reg .dst) (BitVec.ofNat 32 (row + j * rowWords))] ++ runScript p (fwd false))
    ++ [wr p (.reg .dst) (BitVec.ofNat 32 (row + blocks * rowWords))] ++ runScript p (fwd true)

/-- The inverse transform of a whole channel (R161) from the M + 1 rows at DMEM[row ..]: `inv` is MDCT_INV or
STFT_INV, the M output blocks go to DMEM[out ..]. -/
def inverseChannel (p : Params) (inv : Bool → Instr) (n blocks row rowWords out : Nat) : List Event :=
  [wr p (.reg .xfN) (BitVec.ofNat 32 n)] ++ runScript p .xfReset
    ++ [wr p (.reg .src0) (BitVec.ofNat 32 row)] ++ runScript p (inv true)
    ++ (List.range blocks).flatMap (fun r =>
      [wr p (.reg .src0) (BitVec.ofNat 32 (row + (r + 1) * rowWords)),
        wr p (.reg .dst) (BitVec.ofNat 32 (out + r * n))] ++ runScript p (inv false))

end Sys2Proof.Machine
end

