-- ==== Sys2Proof/Safety.lean ====
section
/-! DEFINITION. What the claims are stated in: the invariant of the machine, the end of a run, frames, and the spec's
formulas over functions of an index. -/

namespace Sys2Proof.Machine

open Sys2Proof.Config (Params RamId)

/-! ### The invariant -/

/-- The bytes of a RAM (R40 to R44). -/
def ramSize (p : Params) : RamId → Nat
  | .dmem => 4 * p.dmemWords
  | .hist => 2 * p.nmax
  | .ola => 4 * p.nmax
  | .clut | .elut => 4 * (2 ^ p.lutLog2 + 1)
  | .ct => 4 * (4096 * p.nprof)

/-- Every RAM is in canonical form and lists only bytes it has. -/
def State.RamsOk (s : State) : Prop := ∀ r, (s.ram.get r).wf ∧ (s.ram.get r).within (ramSize s.cfg r)

/-- The in-flight command is the word in CMD (R28, R120). -/
def State.InflightIsCmd (s : State) : Prop := s.inflight = none ∨ s.inflight = some s.cmd

/-- Q_VALID says that Q_RCP and Q_STEP belong to the present inputs (R34, R201). -/
def QuantRegs.Coherent (q : QuantRegs) : Prop :=
  q.qValid = true →
    2 ≤ zext q.qLevels ∧ zext q.qLevels ≤ 65536 ∧ sext q.qMin < sext q.qMax ∧
    (zext q.qRcp : Int) = rne (((zext q.qLevels : Int) - 1) * 2 ^ 32) (sext q.qMax - sext q.qMin) ∧
    (zext q.qStep : Int) = rne ((sext q.qMax - sext q.qMin) * 2 ^ 32) ((zext q.qLevels : Int) - 1)

/-- S_VALID says that S_K belongs to the present inputs (R36, R216). -/
def ScaleRegs.Coherent (c : ScaleRegs) : Prop :=
  c.sValid = true →
    sext c.oldMax ≠ sext c.oldMin ∧
    sext c.k = rne ((sext c.newMax - sext c.newMin) * 2 ^ 31) (sext c.oldMax - sext c.oldMin)

/-- ERRINFO: bits 31:16 are 0 and CODE is no reserved code (R27, R261). -/
def State.ErrinfoOk (s : State) : Prop := s.errinfo.toNat < 2 ^ 16 ∧ s.errinfo.toNat % 2 ^ 8 ≤ 0x0D

/-- EC_PROFV: bits P_NPROF to 31 are 0 (R37). -/
def State.ProfvOk (s : State) : Prop := ∀ p, s.cfg.nprof ≤ p → s.profv.getLsbD p = false

/-- The invariant of the machine. -/
structure State.Inv (s : State) : Prop where
  cfg : s.cfg.Legal
  rams : s.RamsOk
  inflight : s.InflightIsCmd
  quant : s.quant.Coherent
  scl : s.scl.Coherent
  errinfo : s.ErrinfoOk
  profv : s.ProfvOk

/-! ### The end of a run -/

/-- The event is an access of the host. -/
def Event.isAccess : Event → Bool
  | .bus _ => true
  | .sequencer | .hardReset => false

/-- A host program has ended (R130): no host access is left on the agenda, and BUSY = 0. Turns of the sequencer and
hard resets may still come; they are no accesses of the host (log entry 23). -/
def State.RunEnded (s : State) : Prop := (∀ e ∈ s.agenda, e.isAccess = false) ∧ s.busy = false

/-- The run that starts in s ends in t after k steps: t is the first state of it that has ended. -/
def State.EndsAfter : Nat → State → State → Prop
  | 0, s, t => s = t ∧ t.RunEnded
  | k + 1, s, t => ¬s.RunEnded ∧ ∃ u, step s = .next u ∧ State.EndsAfter k u t

/-- The host program that starts in s succeeds (R130): at its end neither ERR nor HOSTERR is set. -/
def State.RunSucceeded (s : State) : Prop :=
  ∃ k t, State.EndsAfter k s t ∧ t.flags.err = false ∧ t.flags.hosterr = false

/-! ### Frames -/

/-- Everything is the same but the STATUS flags, the in-flight command and the RAMs. -/
def SameRegs (s t : State) : Prop :=
  t.cfg = s.cfg ∧ t.ie = s.ie ∧ t.errinfo = s.errinfo ∧ t.cmd = s.cmd ∧ t.ops = s.ops ∧ t.shiftv = s.shiftv ∧
  t.res = s.res ∧ t.quant = s.quant ∧ t.scl = s.scl ∧ t.profv = s.profv ∧ t.rdata = s.rdata ∧
  t.agenda = s.agenda ∧ t.draws = s.draws ∧ t.epoch = s.epoch

/-- Every byte of every RAM outside `written` is the same. -/
def RamsSameBut (written : RamId → Nat → Prop) (s t : State) : Prop :=
  ∀ r x, ¬written r x → t.ramByte r x = s.ramByte r x

/-- The bytes of the words base to base + len - 1 of a RAM. -/
def wordsOf (ram : RamId) (base len : Nat) (r : RamId) (x : Nat) : Prop :=
  r = ram ∧ 4 * base ≤ x ∧ x < 4 * (base + len)

/-- The bytes of the first n entries of HIST. -/
def histOf (n : Nat) (r : RamId) (x : Nat) : Prop := r = .hist ∧ x < 2 * n

/-- Only bytes of RAM are different, and only those in `written`. -/
def OnlyRam (written : RamId → Nat → Prop) (s t : State) : Prop :=
  t = { s with ram := t.ram } ∧ RamsSameBut written s t

/-- A 32-bit read at a window offset returns `v` and changes nothing else. -/
def ReadsAs (s : State) (offset : Nat) (v : Word) : Prop := s.hostRead offset 4 = { s with rdata := v }

/-- No byte. -/
def noBytes (_ : RamId) (_ : Nat) : Prop := False

/-- A command completed (R121): BUSY 0, DONE 1, SAT and DIVZ set when `sat` and `divz` hold and never cleared (R26),
the other flags the same. -/
def Completed (s t : State) (sat divz : Prop) : Prop :=
  t.inflight = none ∧ t.flags.done = true ∧ t.flags.err = s.flags.err ∧ t.flags.buserr = s.flags.buserr ∧
  t.flags.hosterr = s.flags.hosterr ∧ (t.flags.sat = true ↔ s.flags.sat = true ∨ sat) ∧
  (t.flags.divz = true ↔ s.flags.divz = true ∨ divz)

/-- What `raise Error(code)` leaves (R263). -/
def errorState (code : Nat) (s : State) : State :=
  { s with
    errinfo := BitVec.ofNat 32 (code + 256 * (s.cmd.toNat % 256))
    flags := { s.flags with err := true }
    inflight := none }

/-- The command ends with the error `code` and nothing else (R263). -/
def EndsWith (code : Nat) (i : Instr) (s : State) : Prop := exec i s = .next (errorState code s)

/-- A word with this opcode and a 1 outside `used` ends with RESERVED_FIELD, code 0x02 (R91). -/
def ReservedFieldRefused (opc : Nat) (used : Word) : Prop :=
  ∀ (w : Word) (s : State), w.toNat % 256 = opc → w &&& ~~~used ≠ 0 → runWord w s = .next (errorState 0x02 s)

/-- The region test of R123. -/
def Passes (s : State) (base len : Nat) : Prop := len = 0 ∨ base + len ≤ s.cfg.dmemWords

/-- Both regions of a one-source element-wise command pass. -/
def UnaryPasses (s : State) : Prop := Passes s s.src0 s.count ∧ Passes s s.dst s.count

/-- The regions overlap (R124). -/
def Overlaps (b1 l1 b2 l2 : Nat) : Prop := 0 < l1 ∧ 0 < l2 ∧ b1 < b2 + l2 ∧ b2 < b1 + l1

/-- The word that element i of an element-wise command from s to t reads at a DMEM index (R125): what an earlier
element wrote there, else the word before the command. -/
def readBy (s t : State) (i idx : Nat) : Word :=
  if s.dst ≤ idx ∧ idx < s.dst + i then t.dmemWord idx else s.dmemWord idx

/-! ### The spec's formulas -/

/-- lut(T, x) before its SAT32, as R210 writes it. -/
def lutFormula (lutLog2 : Nat) (T : Nat → Int) (x : Int) : Int :=
  let d := 16 - lutLog2
  let a := if x.natAbs > 65536 then 65536 else x.natAbs
  let seg := a >>> d
  let fr := a &&& (2 ^ d - 1)
  let m := if fr = 0 then T seg else T seg + rne ((T (seg + 1) - T seg) * fr) (2 ^ d)
  if x < 0 then -m else m

/-- v = nearest(r) (R140): the integer nearest to a real, the even one at a tie. -/
def Nearest (r : ℝ) (v : Int) : Prop := |(v : ℝ) - r| ≤ 1 / 2 ∧ (|(v : ℝ) - r| = 1 / 2 → v % 2 = 0)

/-- The entries a host loads into CLUT for mu-law with parameter μ (R213). -/
def MuLawClut (μ : ℝ) (lutLog2 : Nat) (T : Nat → Int) : Prop :=
  ∀ i : Nat, i ≤ 2 ^ lutLog2 → Nearest (65536 * Real.log (1 + μ * i / 2 ^ lutLog2) / Real.log (1 + μ)) (T i)

/-- The entries a host loads into ELUT for mu-law with parameter μ (R213). -/
def MuLawElut (μ : ℝ) (lutLog2 : Nat) (T : Nat → Int) : Prop :=
  ∀ i : Nat, i ≤ 2 ^ lutLog2 → Nearest (65536 * ((1 + μ) ^ ((i : ℝ) / 2 ^ lutLog2) - 1) / μ) (T i)

/-- s[i], this hop of a forward transform (R146, R152). -/
def hopSample (s : State) (zin : Bool) (i : Nat) : Int := if zin then 0 else s.dmemSample (s.src0 + i)

/-- x[i], the block of a forward transform (R146, R152). -/
def blockSample (s : State) (zin : Bool) (n i : Nat) : Int :=
  if i < n then sext (s.histEntry i) else hopSample s zin (i - n)

/-- u[j] of the fold (R142). -/
def foldFormula (n : Nat) (x : Nat → Int) (j : Nat) : Int :=
  if j < n / 2 then -x (n + n / 2 - 1 - j) - x (n + n / 2 + j) else x (j - n / 2) - x (n - 1 - (j - n / 2))

/-- K(n, u)[k] (R141). -/
def kernelFormula (n : Nat) (u : Nat → Int) (k : Nat) : Int :=
  ∑ m ∈ Finset.range n, u m * cosq (8 * n) ((2 * m + 1) * (2 * k + 1))

/-- y[i] of the unfold (R143). -/
def unfoldFormula (n : Nat) (w : Nat → Int) (i : Nat) : Int :=
  let h := n / 2
  if i < h then w (h + i)
  else if i < n then -w (n - 1 - (i - h))
  else if i < n + h then -w (h - 1 - (i - n))
  else -w (i - (n + h))

/-- y[i] of MDCT_INV before SAT32 (R149). -/
def mdctInvFormula (s : State) (n i : Nat) : Int :=
  unfoldFormula n
    (fun m => rne (kernelFormula n (fun k => s.dmemInt (s.src0 + k)) m * 2 ^ 8) ((n : Int) * 2 ^ 30)) i

/-- g[m] of STFT_FWD (R152). -/
def windowFormula (s : State) (zin : Bool) (n m : Nat) : Int := blockSample s zin n m * hannq (2 * n) m

/-- y[m] of STFT_INV before SAT32 (R153). -/
def stftInvFormula (s : State) (n m : Nat) : Int :=
  rne ((∑ k ∈ Finset.range (n + 1), (if k = 0 ∨ k = n then 1 else 2) *
      (s.dmemInt (s.src0 + 2 * k) * cosq (2 * n) (k * m) - s.dmemInt (s.src0 + 2 * k + 1) * sinq (2 * n) (k * m)))
    * 2 ^ 8) (((2 * n : Nat) : Int) * 2 ^ 30)

/-- o[i] of the overlap-add before SAT16 (R150), for y before SAT32. -/
def outputFormula (s : State) (y : Nat → Int) (i : Nat) : Int := rne (sext (s.olaWord i) + sat32 (y i)) (2 ^ 8)

/-- What an inverse transform of hop n does, for y before SAT32 (R149, R150, R153). -/
def EmitsBlock (nowr : Bool) (n : Nat) (y : Nat → Int) (s t : State) : Prop :=
  Completed s t ((∃ i < 2 * n, clips32 (y i) = true) ∨ ∃ i < n, clips16 (outputFormula s y i) = true) False ∧
  SameRegs s t ∧
  RamsSameBut (fun r x => wordsOf .ola 0 n r x ∨ (nowr = false ∧ wordsOf .dmem s.dst n r x)) s t ∧
  (∀ i < n, sext (t.olaWord i) = sat32 (y (n + i))) ∧
  (nowr = false → ∀ i < n, t.dmemInt (s.dst + i) = sat16 (outputFormula s y i))

/-- The number of the `l` stream bits from bit `pos` on, the first the most significant (R234). -/
def bitsValue (s : State) (base pos : Nat) : Nat → Nat
  | 0 => 0
  | l + 1 => 2 * bitsValue s base pos l + (s.streamBit base (pos + l)).toNat

/-- Symbol t of profile p has a code word of l bits with this value (R230, R234). -/
def CodeIs (s : State) (p l v t : Nat) : Prop := t < s.cfg.nsym ∧ s.codeLen p t = l ∧ s.codeValue p t = v

/-- No code word matches the stream bits from `pos` on with at most `l` bits (R234). -/
def NoMatch (s : State) (p pos l : Nat) : Prop :=
  ∀ k t, 1 ≤ k → k ≤ l → ¬CodeIs s p k (bitsValue s s.src0 pos k) t

/-- Decoding from `pos` gives symbol t and ends at `pos'` (R234): the shortest match, its least symbol. -/
def DecodesTo (s : State) (p pos t pos' : Nat) : Prop :=
  ∃ l, 1 ≤ l ∧ l ≤ 24 ∧ pos' = pos + l ∧ pos' ≤ 8 * s.count ∧ NoMatch s p pos (l - 1) ∧
    CodeIs s p l (bitsValue s s.src0 pos l) t ∧
    ∀ t' < t, ¬CodeIs s p l (bitsValue s s.src0 pos l) t'

/-- The symbol in source element i of EC_ENCODE (R233). -/
def symbolAt (s : State) (i : Nat) : Nat := s.dmemNat (s.src0 + i)

/-- The coded bits before symbol i (R233): the sum of the LENs of the symbols before it. -/
def bitsBefore (s : State) (p i : Nat) : Nat := ∑ j ∈ Finset.range i, s.codeLen p (symbolAt s j)

/-- The bytes that R291 leaves unspecified when a soft reset cancels a command: its DST region with the lengths of R93,
HIST[0 .. n-1] or OLA[0 .. n-1] of a transform, all of HIST and OLA for XF_RESET. The nwords of EC_ENCODE are those of
R233; where R233 defines none, no byte (log entry 5). -/
def cancelledDest (s : State) (i : Instr) (r : RamId) (x : Nat) : Prop :=
  match i with
  | .nop | .qConfig | .sConfig => False
  | .xfReset => histOf s.cfg.nmax r x ∨ wordsOf .ola 0 s.cfg.nmax r x
  | .mdctFwd _ => wordsOf .dmem s.dst s.hop r x ∨ histOf s.hop r x
  | .stftFwd _ => wordsOf .dmem s.dst (2 * s.hop + 2) r x ∨ histOf s.hop r x
  | .mdctInv nowr => (nowr = false ∧ wordsOf .dmem s.dst s.hop r x) ∨ wordsOf .ola 0 s.hop r x
  | .stftInv nowr => (nowr = false ∧ wordsOf .dmem s.dst s.hop r x) ∨ wordsOf .ola 0 s.hop r x
  | .quant | .dequant | .compand | .expand | .scale | .recip | .mupd | .shift | .unshift =>
    wordsOf .dmem s.dst s.count r x
  | .ecEncode p =>
    p < s.cfg.nprof ∧ Passes s s.src0 s.gridSize ∧
    (∀ j < s.gridSize, symbolAt s j < s.cfg.nsym ∧ s.codeLen p (symbolAt s j) ≠ 0) ∧
    wordsOf .dmem s.dst (((bitsBefore s p s.gridSize + 7) / 8 + 3) / 4) r x
  | .ecDecode _ => wordsOf .dmem s.dst s.gridSize r x

/-- The table of profile p is prefix-free (R230). -/
def PrefixFree (s : State) (p : Nat) : Prop :=
  ∀ t1 t2, s.encodable p t1 = true → s.encodable p t2 = true → t1 ≠ t2 → ¬(s.codeWord p t1 <+: s.codeWord p t2)

/-- The profile is registered (R232). -/
def Registered (s : State) (p : Nat) : Prop := p < s.cfg.nprof ∧ s.profv.getLsbD p = true

end Sys2Proof.Machine
end

