-- ==== Sys2Proof/Certificates/Slice0/Obligations.lean ====
section
/-! DEFINITION. The statements for the provers. An error code is written as its number in R261, a flag and a frame as
Safety.lean says. -/

open Sys2Proof Sys2Proof.Machine Sys2Proof.Config

/-! ### Decoding -/

/-- Decoding the word of a well-formed command gives it back, every field at every value. -/
def Obligations.DecodeOfEncode : Prop :=
  ∀ i : Instr, i.WellFormed → decode (encode i) = .ok i

/-- Only the word of a well-formed command decodes to it: no bit of a word is dropped. -/
def Obligations.DecodedWordIsEncoding : Prop :=
  ∀ (w : Word) (i : Instr), decode w = .ok i → i.WellFormed ∧ encode i = w

/-- R91's three cases, with the masks and matches of opcode_table.json. -/
def Obligations.DecodeFollowsOpcodeTable : Prop :=
  ∀ w : Word,
    ((∃ i, decode w = .ok i) ↔ ∃ row ∈ opcodeTable, w &&& row.1 = row.2) ∧
    (∀ i, decode w = .ok i → ∃ row, opcodeTable[i.tableRow]? = some row ∧ w &&& row.1 = row.2) ∧
    (decode w = .error .badOpcode ↔ ∀ row ∈ opcodeTable, w.toNat % 256 ≠ row.2.toNat) ∧
    (decode w = .error .reservedField ↔
      (∃ row ∈ opcodeTable, w.toNat % 256 = row.2.toNat) ∧ ∀ row ∈ opcodeTable, w &&& row.1 ≠ row.2)

/-- Words written out from R90 and R92. -/
def Obligations.WordsDecodeAsWrittenOut : Prop :=
  decode 0x00000000 = .ok .nop ∧ decode 0x00000110 = .ok (.mdctFwd true) ∧
  decode 0x00000211 = .ok (.mdctInv true) ∧ decode 0x00000012 = .ok (.stftFwd false) ∧
  decode 0x00000021 = .ok .quant ∧ decode 0x0000002B = .ok .mupd ∧ decode 0x00050030 = .ok (.ecEncode 5) ∧
  decode 0x000F0031 = .ok (.ecDecode 15) ∧ decode 0x00000025 = .error .badOpcode ∧
  decode 0x00000310 = .error .reservedField

/-! ### The step -/

/-- A turn of the sequencer with a command in flight performs the decoded command, the event taken from the agenda;
so does a step with nothing on the agenda. -/
def Obligations.StepRunsInflightCommand : Prop :=
  ∀ (s : State) (w : Word) (i : Instr), s.inflight = some w → decode w = .ok i →
    (s.agenda = [] → step s = exec i s) ∧
    (∀ rest, s.agenda = .sequencer :: rest → step s = exec i { s with agenda := rest })

/-- An in-flight word that decodes to no command ends with BAD_OPCODE or RESERVED_FIELD and changes nothing else. -/
def Obligations.IllegalWordEndsInError : Prop :=
  ∀ (s : State) (w : Word) (rest : List Event), s.inflight = some w → s.agenda = .sequencer :: rest →
    ((∀ row ∈ opcodeTable, w.toNat % 256 ≠ row.2.toNat) →
      step s = .next (errorState 0x01 { s with agenda := rest })) ∧
    ((∃ row ∈ opcodeTable, w.toNat % 256 = row.2.toNat) → (∀ row ∈ opcodeTable, w &&& row.1 ≠ row.2) →
      step s = .next (errorState 0x02 { s with agenda := rest }))

/-- Idle AMB changes no state of its own accord. -/
def Obligations.IdleChangesNothing : Prop :=
  ∀ s : State, s.busy = false →
    (s.agenda = [] → step s = .next s) ∧
    (∀ rest, s.agenda = .sequencer :: rest → step s = .next { s with agenda := rest })

/-- A host access and a hard reset are one step each, whatever is in flight; the access at P_BASE + a is the one at
window offset a, and one outside the 512 KiB window does nothing (log entry 18). -/
def Obligations.HostEventIsOneStep : Prop :=
  (∀ (s : State) (rest : List Event),
    (∀ x : Access, s.agenda = .bus x :: rest →
      step s = .next (({ s with agenda := rest } : State).hostAccess x)) ∧
    (s.agenda = .hardReset :: rest → step s = .next (({ s with agenda := rest } : State).hardReset))) ∧
  ∀ s : State,
    (∀ a width : Nat, a < 0x80000 →
      s.hostAccess { addr := s.cfg.base + a, width := width, op := .read } = s.hostRead a width ∧
      ∀ v : Word, s.hostAccess { addr := s.cfg.base + a, width := width, op := .write v } = s.hostWrite a width v) ∧
    ∀ x : Access, (x.addr < s.cfg.base ∨ s.cfg.base + 0x80000 ≤ x.addr) → s.hostAccess x = s

/-- No state is stuck: every step gives a next state, a command that gets its turn is no longer in flight, and every
host program comes to its end. That the sequencer moves when nothing is on the agenda, so that a command completes
then, is the model's choice (log entry 6). -/
def Obligations.EveryStepAnswers : Prop :=
  ∀ s : State,
    (∃ t, step s = .next t ∧ ((s.agenda = [] ∨ ∃ rest, s.agenda = .sequencer :: rest) → t.busy = false)) ∧
    ∃ k t, k ≤ s.agenda.length + 1 ∧ State.EndsAfter k s t

/-! ### Reset and invariant -/

/-- The registers after a hard reset, read as a host reads them. -/
def Obligations.ResetRegistersReadAsSpecified : Prop :=
  State.reset.readReg .id = 0x464D4E41 ∧ State.reset.readReg .version = 0x00010000 ∧
  State.reset.readReg .param0 = 0x00480800 ∧ State.reset.readReg .param1 = 0x02004000 ∧
  (∀ r : Reg, r ≠ .id → r ≠ .version → r ≠ .param0 → r ≠ .param1 → State.reset.readReg r = 0) ∧
  State.reset.irq = false ∧ State.reset.inflight = none

/-- The hard reset as a step: the registers and the in-flight command of State.reset, and every RAM byte the power-on
value of a new epoch. The instance and the agenda stay; rdata and draws, the model's own, stay (log entry 19). -/
def Obligations.HardResetFromAnyState : Prop :=
  ∀ s : State,
    (∀ r : Reg, r ≠ .param0 → r ≠ .param1 → s.hardReset.readReg r = State.reset.readReg r) ∧
    s.hardReset.inflight = none ∧ s.hardReset.irq = false ∧ s.hardReset.cfg = s.cfg ∧
    s.hardReset.agenda = s.agenda ∧ s.hardReset.rdata = s.rdata ∧ s.hardReset.draws = s.draws ∧
    s.hardReset.epoch = s.epoch + 1 ∧
    ∀ r x, s.hardReset.ramByte r x = powerOnByte (s.epoch + 1) r x

/-- The invariant holds at reset. -/
def Obligations.InvAtReset : Prop := State.reset.Inv

/-- The invariant is kept by every step. -/
def Obligations.StepKeepsInv : Prop :=
  ∀ s t : State, s.Inv → step s = .next t → t.Inv

/-- A soft reset with no command in flight resets the registers and leaves every RAM byte. -/
def Obligations.SoftResetWhileIdle : Prop :=
  ∀ s : State, s.busy = false →
    (∀ r : Reg, r ≠ .param0 → r ≠ .param1 → s.softReset.readReg r = State.reset.readReg r) ∧
    s.softReset.inflight = none ∧ s.softReset.cfg = s.cfg ∧ s.softReset.agenda = s.agenda ∧
    s.softReset.rdata = s.rdata ∧ s.softReset.draws = s.draws ∧ s.softReset.epoch = s.epoch ∧
    RamsSameBut noBytes s s.softReset

/-- A soft reset with a command in flight: it completes neither with DONE nor with ERR and the registers are reset. A
word that decodes to no command leaves every RAM byte. A command's destinations that exist hold values drawn at this
moment and every other RAM byte is left; they are the only bytes that the command could have written. Which
destinations a command names that would end in an error is log entry 5. -/
def Obligations.SoftResetCancelsCommand : Prop :=
  ∀ (s : State) (w : Word), s.inflight = some w →
    (∀ r : Reg, r ≠ .param0 → r ≠ .param1 → s.softReset.readReg r = State.reset.readReg r) ∧
    s.softReset.inflight = none ∧ s.softReset.cfg = s.cfg ∧ s.softReset.agenda = s.agenda ∧
    s.softReset.epoch = s.epoch ∧ s.softReset.rdata = s.rdata ∧
    (∀ e, decode w = .error e → RamsSameBut noBytes s s.softReset ∧ s.softReset.draws = s.draws) ∧
    ∀ i, decode w = .ok i →
      RamsSameBut (cancelledDest s i) s s.softReset ∧
      (∀ r x, cancelledDest s i r x → x < ramSize s.cfg r →
        ∃ k, s.draws ≤ k ∧ k < s.softReset.draws ∧ s.softReset.ramByte r x = freeByte k) ∧
      ∀ t, exec i s = .next t → RamsSameBut (cancelledDest s i) s t

/-! ### Arithmetic and ROM -/

/-- RNE is the nearest integer, the even one at a tie, and odd-symmetric. -/
def Obligations.RneIsNearestTiesToEven : Prop :=
  ∀ p q : Int, q ≠ 0 →
    |2 * (q * rne p q - p)| ≤ |q| ∧ (|2 * (q * rne p q - p)| = |q| → rne p q % 2 = 0) ∧
    rne (-p) q = -rne p q

/-- The Q15 windows of two frames that overlap by one hop sum to 1.0: what R154 derives from R140 for 0 ≤ m < n, here
for every m. R154 is the spec's own inference, so the basis is 'derived'. -/
def Obligations.HannWindowsSumToOne : Prop :=
  ∀ n m : Nat, 0 < n → hannq (2 * n) m + hannq (2 * n) (m + n) = 2 ^ 15

/-- The ROM functions are within 1/2 + 2^-20 of the real functions that R140 rounds. The spec's own bound is 1/2; that
the values are the nearest integers is not stated here, it is log entry 10. -/
def Obligations.RomCloseToRealFunctions : Prop :=
  ∀ M m : Nat, 0 < M →
    |(cosq M m : ℝ) - 2 ^ 30 * Real.cos (2 * Real.pi * m / M)| ≤ 1 / 2 + 1 / 2 ^ 20 ∧
    |(sinq M m : ℝ) - 2 ^ 30 * Real.sin (2 * Real.pi * m / M)| ≤ 1 / 2 + 1 / 2 ^ 20 ∧
    |(hannq M m : ℝ) - 2 ^ 15 * (1 - Real.cos (2 * Real.pi * m / M)) / 2| ≤ 1 / 2 + 1 / 2 ^ 20

/-! ### Commands -/

/-- R127, all of it. -/
def Obligations.NopOnlyCompletes : Prop :=
  ReservedFieldRefused 0x00 0x000000FF ∧
  ∀ s : State, exec .nop s = .next { s with flags := { s.flags with done := true }, inflight := none }

/-- R145: every entry of HIST and OLA becomes 0, whatever XF_N holds. -/
def Obligations.XfResetZeroesOverlapMemory : Prop :=
  ReservedFieldRefused 0x01 0x000000FF ∧
  ∀ s : State, ∃ t, exec .xfReset s = .next t ∧ Completed s t False False ∧ SameRegs s t ∧
    (∀ i < s.cfg.nmax, t.histEntry i = 0 ∧ t.olaWord i = 0) ∧
    RamsSameBut (fun r x => histOf s.cfg.nmax r x ∨ wordsOf .ola 0 s.cfg.nmax r x) s t

/-- R146: the checks in order and the forward MDCT block; the coefficients are exact (no saturation). -/
def Obligations.MdctFwdIsFoldedDct : Prop :=
  ReservedFieldRefused 0x10 0x000001FF ∧
  ∀ (zin : Bool) (s : State), s.cfg.Legal →
    let n := s.hop
    let legal := n % 2 = 0 ∧ 2 ≤ n ∧ n ≤ s.cfg.nmax
    let passes := (zin = false → Passes s s.src0 n) ∧ Passes s s.dst n
    (¬legal → EndsWith 0x03 (.mdctFwd zin) s) ∧
    (legal → ¬passes → EndsWith 0x06 (.mdctFwd zin) s) ∧
    (legal → passes → ∃ t, exec (.mdctFwd zin) s = .next t ∧ Completed s t False False ∧ SameRegs s t ∧
      RamsSameBut (fun r x => histOf n r x ∨ wordsOf .dmem s.dst n r x) s t ∧
      (∀ i < n, sext (t.histEntry i) = hopSample s zin i) ∧
      ∀ k < n, t.dmemInt (s.dst + k)
        = rne (kernelFormula n (foldFormula n (blockSample s zin n)) k) (2 ^ 30))

/-- R149 with R150: the checks in order and the inverse MDCT block with its overlap-add. -/
def Obligations.MdctInvUnfoldsAndOverlapAdds : Prop :=
  ReservedFieldRefused 0x11 0x000002FF ∧
  ∀ (nowr : Bool) (s : State),
    let n := s.hop
    let legal := n % 2 = 0 ∧ 2 ≤ n ∧ n ≤ s.cfg.nmax
    let passes := Passes s s.src0 n ∧ (nowr = false → Passes s s.dst n)
    (¬legal → EndsWith 0x03 (.mdctInv nowr) s) ∧
    (legal → ¬passes → EndsWith 0x06 (.mdctInv nowr) s) ∧
    (legal → passes → ∃ t, exec (.mdctInv nowr) s = .next t ∧ EmitsBlock nowr n (mdctInvFormula s n) s t)

/-- R152: the checks in order and the windowed DFT row; the outputs are exact (no saturation). -/
def Obligations.StftFwdIsWindowedDft : Prop :=
  ReservedFieldRefused 0x12 0x000001FF ∧
  ∀ (zin : Bool) (s : State), s.cfg.Legal →
    let n := s.hop
    let legal := 1 ≤ n ∧ n ≤ s.cfg.nmax
    let passes := (zin = false → Passes s s.src0 n) ∧ Passes s s.dst (2 * n + 2)
    (¬legal → EndsWith 0x03 (.stftFwd zin) s) ∧
    (legal → ¬passes → EndsWith 0x06 (.stftFwd zin) s) ∧
    (legal → passes → ∃ t, exec (.stftFwd zin) s = .next t ∧ Completed s t False False ∧ SameRegs s t ∧
      RamsSameBut (fun r x => histOf n r x ∨ wordsOf .dmem s.dst (2 * n + 2) r x) s t ∧
      (∀ i < n, sext (t.histEntry i) = hopSample s zin i) ∧
      ∀ k ≤ n,
        t.dmemInt (s.dst + 2 * k)
          = rne (∑ m ∈ Finset.range (2 * n), windowFormula s zin n m * cosq (2 * n) (k * m)) (2 ^ 45) ∧
        t.dmemInt (s.dst + 2 * k + 1)
          = rne (-∑ m ∈ Finset.range (2 * n), windowFormula s zin n m * sinq (2 * n) (k * m)) (2 ^ 45))

/-- R153 with R150: the checks in order and the inverse DFT frame with its overlap-add. -/
def Obligations.StftInvSynthesisesAndOverlapAdds : Prop :=
  ReservedFieldRefused 0x13 0x000002FF ∧
  ∀ (nowr : Bool) (s : State),
    let n := s.hop
    let legal := 1 ≤ n ∧ n ≤ s.cfg.nmax
    let passes := Passes s s.src0 (2 * n + 2) ∧ (nowr = false → Passes s s.dst n)
    (¬legal → EndsWith 0x03 (.stftInv nowr) s) ∧
    (legal → ¬passes → EndsWith 0x06 (.stftInv nowr) s) ∧
    (legal → passes → ∃ t, exec (.stftInv nowr) s = .next t ∧ EmitsBlock nowr n (stftInvFormula s n) s t)

/-- R201: the checks in order and the derived factors, which fit their 64 bits. -/
def Obligations.QConfigDerivesFactors : Prop :=
  ReservedFieldRefused 0x20 0x000000FF ∧
  ∀ s : State,
    let mn := sext s.quant.qMin
    let mx := sext s.quant.qMax
    let L := zext s.quant.qLevels
    (¬(2 ≤ L ∧ L ≤ 65536) → EndsWith 0x03 .qConfig s) ∧
    (2 ≤ L ∧ L ≤ 65536 → ¬mn < mx → EndsWith 0x08 .qConfig s) ∧
    (2 ≤ L ∧ L ≤ 65536 → mn < mx → ∃ t, exec .qConfig s = .next t ∧ Completed s t False False ∧
      SameRegs s { t with quant := s.quant } ∧ RamsSameBut noBytes s t ∧
      t.quant.qMin = s.quant.qMin ∧ t.quant.qMax = s.quant.qMax ∧ t.quant.qLevels = s.quant.qLevels ∧
      (zext t.quant.qRcp : Int) = rne (((L : Int) - 1) * 2 ^ 32) (mx - mn) ∧
      (zext t.quant.qStep : Int) = rne ((mx - mn) * 2 ^ 32) ((L : Int) - 1) ∧ t.quant.qValid = true)

/-- R202: the checks in order and every index, for every overlap of the regions. -/
def Obligations.QuantWritesIndices : Prop :=
  ReservedFieldRefused 0x21 0x000000FF ∧
  ∀ s : State,
    (s.quant.qValid = false → EndsWith 0x04 .quant s) ∧
    (s.quant.qValid = true → ¬UnaryPasses s → EndsWith 0x06 .quant s) ∧
    (s.quant.qValid = true → UnaryPasses s → ∃ t, exec .quant s = .next t ∧ Completed s t False False ∧
      SameRegs s t ∧ RamsSameBut (wordsOf .dmem s.dst s.count) s t ∧
      ∀ i < s.count, t.dmemWord (s.dst + i) = bits32 (clamp
        (rne ((sext (readBy s t i (s.src0 + i)) - sext s.quant.qMin) * zext s.quant.qRcp) (2 ^ 32))
        0 ((zext s.quant.qLevels : Int) - 1)))

/-- R203: the checks in order and every value, for every overlap of the regions. -/
def Obligations.DequantWritesValues : Prop :=
  ReservedFieldRefused 0x22 0x000000FF ∧
  ∀ s : State,
    (s.quant.qValid = false → EndsWith 0x04 .dequant s) ∧
    (s.quant.qValid = true → ¬UnaryPasses s → EndsWith 0x06 .dequant s) ∧
    (s.quant.qValid = true → UnaryPasses s → ∃ t, exec .dequant s = .next t ∧
      (let v := fun i => sext s.quant.qMin
        + rne ((zext (readBy s t i (s.src0 + i)) : Int) * zext s.quant.qStep) (2 ^ 32)
      Completed s t (∃ i < s.count, clips32 (v i) = true) False ∧
      SameRegs s t ∧ RamsSameBut (wordsOf .dmem s.dst s.count) s t ∧
      ∀ i < s.count, t.dmemInt (s.dst + i) = sat32 (v i)))

/-- R211 with R210: COMPAND through CLUT. -/
def Obligations.CompandInterpolatesClut : Prop :=
  ReservedFieldRefused 0x23 0x000000FF ∧
  ∀ s : State,
    (¬UnaryPasses s → EndsWith 0x06 .compand s) ∧
    (UnaryPasses s → ∃ t, exec .compand s = .next t ∧
      (let x := fun i => sext (readBy s t i (s.src0 + i))
      let v := fun i => lutFormula s.cfg.lutLog2 (fun j => sext (s.clutWord j)) (x i)
      Completed s t (∃ i < s.count, 65536 < (x i).natAbs ∨ clips32 (v i) = true) False ∧
      SameRegs s t ∧ RamsSameBut (wordsOf .dmem s.dst s.count) s t ∧
      ∀ i < s.count, t.dmemInt (s.dst + i) = sat32 (v i)))

/-- R212 with R210: EXPAND through ELUT. -/
def Obligations.ExpandInterpolatesElut : Prop :=
  ReservedFieldRefused 0x24 0x000000FF ∧
  ∀ s : State,
    (¬UnaryPasses s → EndsWith 0x06 .expand s) ∧
    (UnaryPasses s → ∃ t, exec .expand s = .next t ∧
      (let x := fun i => sext (readBy s t i (s.src0 + i))
      let v := fun i => lutFormula s.cfg.lutLog2 (fun j => sext (s.elutWord j)) (x i)
      Completed s t (∃ i < s.count, 65536 < (x i).natAbs ∨ clips32 (v i) = true) False ∧
      SameRegs s t ∧ RamsSameBut (wordsOf .dmem s.dst s.count) s t ∧
      ∀ i < s.count, t.dmemInt (s.dst + i) = sat32 (v i)))

/-- R216: the check and the signed factor, which fits its 64 bits. -/
def Obligations.SConfigDerivesFactor : Prop :=
  ReservedFieldRefused 0x28 0x000000FF ∧
  ∀ s : State,
    let om := sext s.scl.oldMin
    let oM := sext s.scl.oldMax
    (oM = om → EndsWith 0x08 .sConfig s) ∧
    (oM ≠ om → ∃ t, exec .sConfig s = .next t ∧ Completed s t False False ∧
      SameRegs s { t with scl := s.scl } ∧ RamsSameBut noBytes s t ∧
      t.scl.oldMin = s.scl.oldMin ∧ t.scl.oldMax = s.scl.oldMax ∧ t.scl.newMin = s.scl.newMin ∧
      t.scl.newMax = s.scl.newMax ∧
      sext t.scl.k = rne ((sext s.scl.newMax - sext s.scl.newMin) * 2 ^ 31) (oM - om) ∧ t.scl.sValid = true)

/-- R217: the checks in order and every value, for every overlap of the regions. -/
def Obligations.ScaleWritesRemap : Prop :=
  ReservedFieldRefused 0x29 0x000000FF ∧
  ∀ s : State,
    (s.scl.sValid = false → EndsWith 0x04 .scale s) ∧
    (s.scl.sValid = true → ¬UnaryPasses s → EndsWith 0x06 .scale s) ∧
    (s.scl.sValid = true → UnaryPasses s → ∃ t, exec .scale s = .next t ∧
      (let v := fun i => sext s.scl.newMin
        + rne ((sext (readBy s t i (s.src0 + i)) - sext s.scl.oldMin) * sext s.scl.k) (2 ^ 31)
      Completed s t (∃ i < s.count, clips32 (v i) = true) False ∧
      SameRegs s t ∧ RamsSameBut (wordsOf .dmem s.dst s.count) s t ∧
      ∀ i < s.count, t.dmemInt (s.dst + i) = sat32 (v i)))

/-- R182's pseudocode: the check and every reciprocal. At x = 2 it clips, which R182's flags sentence does not name
(log entry 22). -/
def Obligations.RecipWritesReciprocals : Prop :=
  ReservedFieldRefused 0x2A 0x000000FF ∧
  ∀ s : State,
    (¬UnaryPasses s → EndsWith 0x06 .recip s) ∧
    (UnaryPasses s → ∃ t, exec .recip s = .next t ∧
      (let x := fun i => sext (readBy s t i (s.src0 + i))
      Completed s t (∃ i < s.count, x i ≠ 0 ∧ clips32 (rne (2 ^ 32) (x i)) = true) (∃ i < s.count, x i = 0) ∧
      SameRegs s t ∧ RamsSameBut (wordsOf .dmem s.dst s.count) s t ∧
      ∀ i < s.count, t.dmemInt (s.dst + i) = if x i = 0 then 2 ^ 31 - 1 else sat32 (rne (2 ^ 32) (x i))))

/-- R184 with R183: the checks in order and every factor a·b / c. -/
def Obligations.MupdWritesFactors : Prop :=
  ReservedFieldRefused 0x2B 0x000000FF ∧
  ∀ s : State,
    let passes := Passes s s.src0 s.count ∧ Passes s s.src1 s.count ∧ Passes s s.src2 s.count ∧
      Passes s s.dst s.count
    let negative := ∃ i < s.count, s.dmemInt (s.src0 + i) < 0 ∨ s.dmemInt (s.src1 + i) < 0 ∨
      s.dmemInt (s.src2 + i) < 0
    (¬passes → EndsWith 0x06 .mupd s) ∧
    (passes → negative → EndsWith 0x09 .mupd s) ∧
    (passes → ¬negative → ∃ t, exec .mupd s = .next t ∧
      (let a := fun i => sext (readBy s t i (s.src0 + i))
      let b := fun i => sext (readBy s t i (s.src1 + i))
      let c := fun i => sext (readBy s t i (s.src2 + i))
      Completed s t (∃ i < s.count, c i ≠ 0 ∧ clips32 (rne (a i * b i) (c i)) = true)
        (∃ i < s.count, c i = 0 ∧ b i ≠ 0) ∧
      SameRegs s t ∧ RamsSameBut (wordsOf .dmem s.dst s.count) s t ∧
      ∀ i < s.count, t.dmemInt (s.dst + i) =
        if c i = 0 then (if b i = 0 then 0 else if a i = 0 then 0 else 2 ^ 31 - 1)
        else sat32 (rne (a i * b i) (c i))))

/-- MUPD writes no negative entry. -/
def Obligations.MupdKeepsNonNegative : Prop :=
  ∀ s t : State, s.flags.err = false → exec .mupd s = .next t → t.flags.err = false →
    ∀ i < s.count, 0 ≤ t.dmemInt (s.dst + i)

/-- R186 with R183: the checks in order, the shift scalar |min| and every shifted entry. -/
def Obligations.ShiftAddsAbsoluteMinimum : Prop :=
  ReservedFieldRefused 0x2C 0x000000FF ∧
  ∀ s : State,
    (s.count = 0 → EndsWith 0x03 .shift s) ∧
    (s.count ≠ 0 → ¬UnaryPasses s → EndsWith 0x06 .shift s) ∧
    (s.count ≠ 0 → UnaryPasses s → ∃ (t : State) (m : Int), exec .shift s = .next t ∧
      (∀ i < s.count, m ≤ s.dmemInt (s.src0 + i)) ∧ (∃ i < s.count, m = s.dmemInt (s.src0 + i)) ∧
      (zext t.shiftv : Int) = |m| ∧
      (let v := fun i => sext (readBy s t i (s.src0 + i)) + |m|
      Completed s t (∃ i < s.count, clips32 (v i) = true) False ∧
      SameRegs s { t with shiftv := s.shiftv } ∧ RamsSameBut (wordsOf .dmem s.dst s.count) s t ∧
      ∀ i < s.count, t.dmemInt (s.dst + i) = sat32 (v i)))

/-- R187: the check and every unshifted entry. -/
def Obligations.UnshiftSubtractsScalar : Prop :=
  ReservedFieldRefused 0x2D 0x000000FF ∧
  ∀ s : State,
    (¬UnaryPasses s → EndsWith 0x06 .unshift s) ∧
    (UnaryPasses s → ∃ t, exec .unshift s = .next t ∧
      (let v := fun i => sext (readBy s t i (s.src0 + i)) - zext s.shiftv
      Completed s t (∃ i < s.count, clips32 (v i) = true) False ∧
      SameRegs s t ∧ RamsSameBut (wordsOf .dmem s.dst s.count) s t ∧
      ∀ i < s.count, t.dmemInt (s.dst + i) = sat32 (v i)))

/-- A SHIFT that sets no SAT, in place or to a disjoint region, is undone by an UNSHIFT of its output in place. -/
def Obligations.UnshiftUndoesShift : Prop :=
  ∀ s t : State, exec .shift s = .next t → t.flags.err = false → t.flags.sat = false →
    (s.dst = s.src0 ∨ s.dst + s.count ≤ s.src0 ∨ s.src0 + s.count ≤ s.dst) →
    ∃ u, exec .unshift { t with ops := { t.ops with src0 := t.ops.dst } } = .next u ∧
      u.flags.err = false ∧ u.flags.sat = false ∧
      ∀ i < s.count, u.dmemInt (s.dst + i) = s.dmemInt (s.src0 + i)

/-- The derived round-trip bound of the quantizer, in Q16.16 units. -/
def Obligations.QuantizerRoundTripBound : Prop :=
  ∀ (q : QuantRegs) (x : Int), q.Coherent → q.qValid = true → sext q.qMin ≤ x → x ≤ sext q.qMax →
    let step : ℚ := (sext q.qMax - sext q.qMin : ℚ) / ((zext q.qLevels : ℚ) - 1)
    let δ : ℚ := (x - sext q.qMin : ℚ) / 2 ^ 33
    |(sat32 (dequantValue q (quantIndex q x).toNat) : ℚ) - x|
      ≤ (1 / 2 + δ) * step + ((zext q.qLevels : ℚ) - 1) / 2 ^ 33 + 1 / 2

/-- The compander's curve is odd away from 0. (At 0 both sides are T[0], so the spec's derived claim needs T[0] = 0
there.) -/
def Obligations.CompanderCurveIsOdd : Prop :=
  ∀ (lutLog2 : Nat) (T : Nat → Int) (x : Int), x ≠ 0 →
    lutValue lutLog2 T (-x) = -lutValue lutLog2 T x

/-- R233: the checks in order and the stream, bit by bit, with the results. -/
def Obligations.EcEncodeWritesStream : Prop :=
  ReservedFieldRefused 0x30 0x000F00FF ∧
  ∀ (p : Nat) (s : State),
    let n := s.gridSize
    let cap := zext s.ops.cap
    let passes := Passes s s.src0 n ∧ Passes s s.dst ((cap + 3) / 4)
    let overlaps := Overlaps s.src0 n s.dst ((cap + 3) / 4)
    let encodable := ∀ i < n, symbolAt s i < s.cfg.nsym ∧ s.codeLen p (symbolAt s i) ≠ 0
    let B := bitsBefore s p n
    let nbytes := (B + 7) / 8
    let nwords := (nbytes + 3) / 4
    (¬Registered s p → EndsWith 0x05 (.ecEncode p) s) ∧
    (Registered s p → ¬passes → EndsWith 0x06 (.ecEncode p) s) ∧
    (Registered s p → passes → overlaps → EndsWith 0x07 (.ecEncode p) s) ∧
    (Registered s p → passes → ¬overlaps → ¬encodable → EndsWith 0x0A (.ecEncode p) s) ∧
    (Registered s p → passes → ¬overlaps → encodable → cap < nbytes → EndsWith 0x0B (.ecEncode p) s) ∧
    (Registered s p → passes → ¬overlaps → encodable → nbytes ≤ cap →
      ∃ t, exec (.ecEncode p) s = .next t ∧ Completed s t False False ∧
        SameRegs s { t with res := s.res } ∧ RamsSameBut (wordsOf .dmem s.dst nwords) s t ∧
        t.res.res0 = BitVec.ofNat 32 nbytes ∧ t.res.res1 = BitVec.ofNat 32 B ∧ t.res.res2 = s.ops.rows ∧
        (∀ i < n, ∀ b < s.codeLen p (symbolAt s i), t.streamBit s.dst (bitsBefore s p i + b)
          = (s.codeValue p (symbolAt s i)).testBit (s.codeLen p (symbolAt s i) - 1 - b)) ∧
        ∀ q, B ≤ q → q < 32 * nwords → t.streamBit s.dst q = false)

/-- R234: the checks in order, a grid that decodes, and the two ways decoding fails, with their progress. -/
def Obligations.EcDecodeWritesSymbols : Prop :=
  ReservedFieldRefused 0x31 0x000F00FF ∧
  ∀ (p : Nat) (s : State),
    let n := s.gridSize
    let passes := Passes s s.src0 ((s.count + 3) / 4) ∧ Passes s s.dst n
    let overlaps := Overlaps s.src0 ((s.count + 3) / 4) s.dst n
    let wrote := fun (t : State) (k pos : Nat) (sym : Nat → Nat) =>
      SameRegs s { t with res := s.res, errinfo := s.errinfo } ∧ RamsSameBut (wordsOf .dmem s.dst k) s t ∧
      (∀ i < k, t.dmemWord (s.dst + i) = BitVec.ofNat 32 (sym i)) ∧
      t.res.res0 = BitVec.ofNat 32 k ∧ t.res.res1 = BitVec.ofNat 32 pos ∧ t.res.res2 = s.ops.rows
    let failed := fun (t : State) (code : Nat) =>
      t.errinfo = BitVec.ofNat 32 (code + 256 * (s.cmd.toNat % 256)) ∧
      t.flags = { s.flags with err := true } ∧ t.inflight = none
    (¬Registered s p → EndsWith 0x05 (.ecDecode p) s) ∧
    (Registered s p → ¬passes → EndsWith 0x06 (.ecDecode p) s) ∧
    (Registered s p → passes → overlaps → EndsWith 0x07 (.ecDecode p) s) ∧
    (Registered s p → passes → ¬overlaps → ∀ (sym pos : Nat → Nat), pos 0 = 0 →
      ((∀ i < n, DecodesTo s p (pos i) (sym i) (pos (i + 1))) →
        ∃ t, exec (.ecDecode p) s = .next t ∧ Completed s t False False ∧ t.errinfo = s.errinfo ∧
          wrote t n (pos n) sym) ∧
      (∀ k < n, (∀ i < k, DecodesTo s p (pos i) (sym i) (pos (i + 1))) →
        (8 * s.count < pos k + 24 → NoMatch s p (pos k) (8 * s.count - pos k) →
          ∃ t, exec (.ecDecode p) s = .next t ∧ failed t 0x0C ∧ wrote t k (8 * s.count) sym) ∧
        (pos k + 24 ≤ 8 * s.count → NoMatch s p (pos k) 24 →
          ∃ t, exec (.ecDecode p) s = .next t ∧ failed t 0x0D ∧ wrote t k (pos k + 24) sym)))

/-- An EC_DECODE of the stream an EC_ENCODE wrote, with the same prefix-free table and grid, gives the symbols
back. -/
def Obligations.EcDecodeUndoesEcEncode : Prop :=
  ∀ (p : Nat) (s t : State) (d : Word), s.cfg.Legal → PrefixFree s p →
    exec (.ecEncode p) s = .next t → t.flags.err = false →
    Passes s d.toNat s.gridSize →
    ¬Overlaps s.dst ((t.res.res0.toNat + 3) / 4) d.toNat s.gridSize →
    ∃ u, exec (.ecDecode p)
        { t with ops := { t.ops with src0 := t.ops.dst, dst := d, count := t.res.res0 } } = .next u ∧
      u.flags.err = false ∧ u.flags.done = true ∧ u.res.res1 = t.res.res1 ∧
      u.res.res0.toNat = s.gridSize ∧
      ∀ i < s.gridSize, u.dmemWord (d.toNat + i) = s.dmemWord (s.src0 + i)

/-! ### Rules of all commands -/

/-- An error is precise: a command either completes, or ends with one of the codes 0x01 to 0x0D and leaves everything
but ERRINFO, ERR and BUSY; only EC_DECODE may also leave written symbols and RES0 to RES2. -/
def Obligations.ErrorsArePrecise : Prop :=
  ∀ (i : Instr) (s : State), ∃ t, exec i s = .next t ∧ t.inflight = none ∧
    ((t.flags.done = true ∧ t.flags.err = s.flags.err ∧ t.errinfo = s.errinfo) ∨
     ∃ code, 0x01 ≤ code ∧ code ≤ 0x0D ∧
      (t = errorState code s ∨
       (∃ p, i = .ecDecode p) ∧ (code = 0x0C ∨ code = 0x0D) ∧
        t = { errorState code s with ram := t.ram, res := t.res } ∧
        RamsSameBut (wordsOf .dmem s.dst s.gridSize) s t))

/-- No command writes an operand register, CMD, CTRL, EC_PROFV, the compander tables or the code table, sets or
clears BUSERR or HOSTERR, or clears a flag. -/
def Obligations.CommandsNeverWriteHostState : Prop :=
  ∀ (i : Instr) (s t : State), exec i s = .next t →
    t.ops = s.ops ∧ t.cmd = s.cmd ∧ t.ie = s.ie ∧ t.profv = s.profv ∧ t.cfg = s.cfg ∧
    (∀ x, t.ramByte .clut x = s.ramByte .clut x ∧ t.ramByte .elut x = s.ramByte .elut x ∧
      t.ramByte .ct x = s.ramByte .ct x) ∧
    t.flags.buserr = s.flags.buserr ∧ t.flags.hosterr = s.flags.hosterr ∧
    (s.flags.done = true → t.flags.done = true) ∧ (s.flags.err = true → t.flags.err = true) ∧
    (s.flags.sat = true → t.flags.sat = true) ∧ (s.flags.divz = true → t.flags.divz = true)

/-- While a command runs, a host access that does not cancel it leaves everything the command reads. -/
def Obligations.BusyAccessKeepsCapturedState : Prop :=
  ∀ (s : State) (x : Access), s.busy = true → (s.hostAccess x).busy = true →
    (s.hostAccess x).inflight = s.inflight ∧ (s.hostAccess x).cfg = s.cfg ∧ (s.hostAccess x).cmd = s.cmd ∧
    (s.hostAccess x).ops = s.ops ∧ (s.hostAccess x).shiftv = s.shiftv ∧ (s.hostAccess x).res = s.res ∧
    (s.hostAccess x).quant = s.quant ∧ (s.hostAccess x).scl = s.scl ∧ (s.hostAccess x).profv = s.profv ∧
    (s.hostAccess x).errinfo = s.errinfo ∧ (s.hostAccess x).ram = s.ram ∧ (s.hostAccess x).epoch = s.epoch

/-- So the effect of a command does not depend on the host accesses between its issue and its completion. -/
def Obligations.EffectIsThatOfTheStateAtIssue : Prop :=
  ∀ (s : State) (x : Access) (i : Instr) (t u : State), s.busy = true → (s.hostAccess x).busy = true →
    exec i s = .next t → exec i (s.hostAccess x) = .next u →
    u.ram = t.ram ∧ u.ops = t.ops ∧ u.shiftv = t.shiftv ∧ u.res = t.res ∧ u.quant = t.quant ∧ u.scl = t.scl ∧
    u.errinfo = t.errinfo ∧ u.cmd = t.cmd ∧ u.profv = t.profv ∧ u.inflight = t.inflight

/-! ### The host's bus -/

/-- Every register of R20's map, its offset written out, and what a read returns, busy or not: the read changes nothing
but the value returned. The same read named by the model's own Reg, in which the reset statements speak. -/
def Obligations.RegisterReadsReturnTheirValue : Prop :=
  ∀ s : State,
    (∀ r : Reg, ReadsAs s r.offset (s.readReg r)) ∧
    ReadsAs s 0x000 0x464D4E41 ∧ ReadsAs s 0x004 0x00010000 ∧
    (s.cfg.Legal →
      ReadsAs s 0x008 (BitVec.ofNat 32 (s.cfg.nmax + 2 ^ 16 * s.cfg.lutLog2 + 2 ^ 20 * s.cfg.nprof)) ∧
      ReadsAs s 0x00C (BitVec.ofNat 32 (s.cfg.dmemWords + 2 ^ 17 * s.cfg.nsym))) ∧
    ReadsAs s 0x010 (BitVec.ofNat 32 s.ie.toNat) ∧
    ReadsAs s 0x014 (BitVec.ofNat 32 (s.busy.toNat + 2 * s.flags.done.toNat + 4 * s.flags.err.toNat
      + 8 * s.flags.sat.toNat + 16 * s.flags.divz.toNat + 32 * s.flags.buserr.toNat + 64 * s.flags.hosterr.toNat)) ∧
    ReadsAs s 0x018 s.errinfo ∧ ReadsAs s 0x01C s.cmd ∧
    ReadsAs s 0x020 s.ops.src0 ∧ ReadsAs s 0x024 s.ops.src1 ∧ ReadsAs s 0x028 s.ops.src2 ∧
    ReadsAs s 0x02C s.ops.dst ∧ ReadsAs s 0x030 s.ops.count ∧ ReadsAs s 0x034 s.ops.rows ∧
    ReadsAs s 0x038 s.ops.cols ∧ ReadsAs s 0x03C s.ops.cap ∧ ReadsAs s 0x040 s.ops.xfN ∧
    ReadsAs s 0x044 s.shiftv ∧ ReadsAs s 0x048 s.res.res0 ∧ ReadsAs s 0x04C s.res.res1 ∧
    ReadsAs s 0x050 s.res.res2 ∧
    ReadsAs s 0x060 s.quant.qMin ∧ ReadsAs s 0x064 s.quant.qMax ∧ ReadsAs s 0x068 s.quant.qLevels ∧
    ReadsAs s 0x06C (BitVec.ofNat 32 (s.quant.qRcp.toNat % 2 ^ 32)) ∧
    ReadsAs s 0x070 (BitVec.ofNat 32 (s.quant.qRcp.toNat / 2 ^ 32)) ∧
    ReadsAs s 0x074 (BitVec.ofNat 32 (s.quant.qStep.toNat % 2 ^ 32)) ∧
    ReadsAs s 0x078 (BitVec.ofNat 32 (s.quant.qStep.toNat / 2 ^ 32)) ∧
    ReadsAs s 0x07C (BitVec.ofNat 32 s.quant.qValid.toNat) ∧
    ReadsAs s 0x080 s.scl.oldMin ∧ ReadsAs s 0x084 s.scl.oldMax ∧ ReadsAs s 0x088 s.scl.newMin ∧
    ReadsAs s 0x08C s.scl.newMax ∧
    ReadsAs s 0x090 (BitVec.ofNat 32 (s.scl.k.toNat % 2 ^ 32)) ∧
    ReadsAs s 0x094 (BitVec.ofNat 32 (s.scl.k.toNat / 2 ^ 32)) ∧
    ReadsAs s 0x098 (BitVec.ofNat 32 s.scl.sValid.toNat) ∧ ReadsAs s 0x0A0 s.profv

/-- A host read changes nothing but the value returned, the draw counter and BUSERR, which it can only set. -/
def Obligations.HostReadsHaveNoSideEffects : Prop :=
  ∀ (s : State) (a width : Nat),
    ∃ (v : Word) (k : Nat) (b : Bool), s.hostRead a width =
      { s with rdata := v, draws := k, flags := { s.flags with buserr := s.flags.buserr || b } }

/-- An access that is not 32 bits wide, is misaligned or addresses an unmapped offset: a read returns 0, a write
changes nothing, either sets BUSERR, busy or not. -/
def Obligations.UnservedAccessOnlySetsBuserr : Prop :=
  ∀ (s : State) (a width : Nat) (v : Word), s.cfg.Legal →
    let i := (a - 0x10000) / 4
    let unmapped := (0x00100 ≤ a ∧ a < 0x04000) ∨ (0x04000 + 4 * s.cfg.nmax ≤ a ∧ a < 0x08000) ∨
      (0x08000 + 4 * s.cfg.nmax ≤ a ∧ a < 0x0C000) ∨ (0x0C000 + 4 * (2 ^ s.cfg.lutLog2 + 1) ≤ a ∧ a < 0x0E000) ∨
      (0x0E000 + 4 * (2 ^ s.cfg.lutLog2 + 1) ≤ a ∧ a < 0x10000) ∨
      (0x10000 ≤ a ∧ a < 0x20000 ∧ ¬(i / 4096 < s.cfg.nprof ∧ i % 4096 < s.cfg.nsym)) ∨
      (0x20000 + 4 * s.cfg.dmemWords ≤ a)
    (width ≠ 4 ∨ a % 4 ≠ 0 ∨ unmapped) →
      s.hostRead a width = { s with rdata := 0, flags := { s.flags with buserr := true } } ∧
      s.hostWrite a width v = { s with flags := { s.flags with buserr := true } }

/-- An offset of the register file that names no register reads 0 and ignores writes, without BUSERR. (HOSTERR of such
a write while a command runs is open, log entry 12.) -/
def Obligations.ReservedOffsetsReadZero : Prop :=
  ∀ (s : State) (a : Nat) (v : Word), a < 0x100 → a % 4 = 0 → (∀ r : Reg, r.offset ≠ a) →
    s.hostRead a 4 = { s with rdata := 0 } ∧ (s.busy = false → s.hostWrite a 4 v = s) ∧
    ∃ b : Bool, s.hostWrite a 4 v = { s with flags := { s.flags with hosterr := s.flags.hosterr || b } }

/-- While a command runs, a served write to anything but CTRL and STATUS is ignored and sets HOSTERR; for a reserved
offset it is ignored and HOSTERR is open (log entry 12). -/
def Obligations.BusyWritesAreIgnored : Prop :=
  ∀ (s : State) (a : Nat) (v : Word) (t : Target), s.busy = true → served s.cfg a 4 = some t →
    t ≠ .reg .ctrl → t ≠ .reg .status →
    (t ≠ .reserved → s.hostWrite a 4 v = { s with flags := { s.flags with hosterr := true } }) ∧
    ∃ b : Bool, s.hostWrite a 4 v = { s with flags := { s.flags with hosterr := s.flags.hosterr || b } }

/-- While a command runs, a read of a RAM element returns a free value, a new one at each read. -/
def Obligations.BusyRamReadsAreFreeDraws : Prop :=
  ∀ (s : State) (a : Nat) (t : Target), s.busy = true → served s.cfg a 4 = some t → 0x100 ≤ a →
    s.hostRead a 4 = { s with rdata := freeWord s.draws, draws := s.draws + 1 }

/-- STATUS: bits 0 to 6 are the named flags, bits 31:7 are 0, and bits 6:1 are W1C, busy or not; BUSY and the reserved
bits ignore the write. -/
def Obligations.StatusBitsAreWriteOneToClear : Prop :=
  ∀ (s : State) (v : Word),
    (s.hostWrite 0x014 4 v) = { s with flags := (s.hostWrite 0x014 4 v).flags } ∧
    (∀ k, (s.hostWrite 0x014 4 v).statusWord.getLsbD k =
      (s.statusWord.getLsbD k && !(decide (1 ≤ k ∧ k ≤ 6) && v.getLsbD k))) ∧
    s.statusWord.getLsbD 0 = s.busy ∧ s.statusWord.getLsbD 1 = s.flags.done ∧
    s.statusWord.getLsbD 2 = s.flags.err ∧ s.statusWord.getLsbD 3 = s.flags.sat ∧
    s.statusWord.getLsbD 4 = s.flags.divz ∧ s.statusWord.getLsbD 5 = s.flags.buserr ∧
    s.statusWord.getLsbD 6 = s.flags.hosterr ∧ ∀ k, 7 ≤ k → s.statusWord.getLsbD k = false

/-- A write to CMD issues when idle, and only sets HOSTERR while a command runs. -/
def Obligations.CmdWriteIssuesWhenIdle : Prop :=
  ∀ (s : State) (w : Word),
    (s.busy = false → s.hostWrite 0x01C 4 w = { s with cmd := w, inflight := some w } ∧
      (s.hostWrite 0x01C 4 w).busy = true) ∧
    (s.busy = true → s.hostWrite 0x01C 4 w = { s with flags := { s.flags with hosterr := true } })

/-- A write to a quantizer or scaling input, of any value, is stored and clears Q_VALID or S_VALID, so that the next
QUANT, DEQUANT or SCALE ends with NOT_CONFIGURED. -/
def Obligations.ConfigurationWritesInvalidate : Prop :=
  ∀ (s : State) (v : Word), s.busy = false →
    s.hostWrite 0x060 4 v = { s with quant := { s.quant with qMin := v, qValid := false } } ∧
    s.hostWrite 0x064 4 v = { s with quant := { s.quant with qMax := v, qValid := false } } ∧
    s.hostWrite 0x068 4 v = { s with quant := { s.quant with qLevels := v, qValid := false } } ∧
    s.hostWrite 0x080 4 v = { s with scl := { s.scl with oldMin := v, sValid := false } } ∧
    s.hostWrite 0x084 4 v = { s with scl := { s.scl with oldMax := v, sValid := false } } ∧
    s.hostWrite 0x088 4 v = { s with scl := { s.scl with newMin := v, sValid := false } } ∧
    s.hostWrite 0x08C 4 v = { s with scl := { s.scl with newMax := v, sValid := false } } ∧
    (∀ a ∈ [0x060, 0x064, 0x068],
      EndsWith 0x04 .quant (s.hostWrite a 4 v) ∧ EndsWith 0x04 .dequant (s.hostWrite a 4 v)) ∧
    ∀ a ∈ [0x080, 0x084, 0x088, 0x08C], EndsWith 0x04 .scale (s.hostWrite a 4 v)

/-- A host write to a RAM element while idle: what a read then returns; no other byte of any RAM, no register, no flag
and no in-flight command changes. HIST keeps
bits 15:0 and reads them sign-extended; CT drops bits 31:29 and stores a LEN above 24 as 0. -/
def Obligations.RamWritesReadBack : Prop :=
  ∀ (s : State) (v : Word), s.cfg.Legal → s.busy = false →
    (∀ i < s.cfg.dmemWords,
      ((s.hostWrite (0x20000 + 4 * i) 4 v).hostRead (0x20000 + 4 * i) 4).rdata = v ∧
      OnlyRam (wordsOf .dmem i 1) s (s.hostWrite (0x20000 + 4 * i) 4 v)) ∧
    (∀ i < s.cfg.nmax,
      ((s.hostWrite (0x04000 + 4 * i) 4 v).hostRead (0x04000 + 4 * i) 4).rdata
        = (v.extractLsb' 0 16).signExtend 32 ∧
      OnlyRam (fun r x => r = .hist ∧ 2 * i ≤ x ∧ x < 2 * i + 2) s (s.hostWrite (0x04000 + 4 * i) 4 v)) ∧
    (∀ i < s.cfg.nmax,
      ((s.hostWrite (0x08000 + 4 * i) 4 v).hostRead (0x08000 + 4 * i) 4).rdata = v ∧
      OnlyRam (wordsOf .ola i 1) s (s.hostWrite (0x08000 + 4 * i) 4 v)) ∧
    (∀ i ≤ 2 ^ s.cfg.lutLog2,
      ((s.hostWrite (0x0C000 + 4 * i) 4 v).hostRead (0x0C000 + 4 * i) 4).rdata = v ∧
      OnlyRam (wordsOf .clut i 1) s (s.hostWrite (0x0C000 + 4 * i) 4 v)) ∧
    (∀ i ≤ 2 ^ s.cfg.lutLog2,
      ((s.hostWrite (0x0E000 + 4 * i) 4 v).hostRead (0x0E000 + 4 * i) 4).rdata = v ∧
      OnlyRam (wordsOf .elut i 1) s (s.hostWrite (0x0E000 + 4 * i) 4 v)) ∧
    (∀ p < s.cfg.nprof, ∀ k < s.cfg.nsym,
      ((s.hostWrite (0x10000 + 4 * (4096 * p + k)) 4 v).hostRead (0x10000 + 4 * (4096 * p + k)) 4).rdata
        = (if v.toNat / 2 ^ 24 % 32 ≤ 24 then v &&& 0x1FFFFFFF else v &&& 0x00FFFFFF) ∧
      OnlyRam (wordsOf .ct (4096 * p + k) 1) s (s.hostWrite (0x10000 + 4 * (4096 * p + k)) 4 v))

/-- EC_PROFV keeps only the bits of profiles the instance has. -/
def Obligations.ProfvKeepsOnlyExistingProfiles : Prop :=
  ∀ (s : State) (v : Word), s.busy = false →
    (s.hostWrite 0x0A0 4 v) = { s with profv := (s.hostWrite 0x0A0 4 v).profv } ∧
    ∀ k, (s.hostWrite 0x0A0 4 v).profv.getLsbD k = (v.getLsbD k && decide (k < s.cfg.nprof))

/-- CTRL: SRST = 1 is a soft reset, after which IE reads 0 (log entry 14); SRST = 0 stores IE. CTRL reads IE alone. -/
def Obligations.CtrlStoresEnableOrResets : Prop :=
  ∀ (s : State) (v : Word),
    (v.getLsbD 1 = false → s.hostWrite 0x010 4 v = { s with ie := v.getLsbD 0 }) ∧
    (v.getLsbD 1 = true → s.hostWrite 0x010 4 v = s.softReset ∧ (s.hostWrite 0x010 4 v).readReg .ctrl = 0) ∧
    s.readReg .ctrl = (if s.ie then 1 else 0)

/-- IRQ is the level of R46 at every moment: after a completion, after a W1C, after an IE write. -/
def Obligations.IrqIsALevel : Prop :=
  ∀ s : State, (s.irq = true ↔ s.ie = true ∧ (s.flags.done = true ∨ s.flags.err = true)) ∧
    (s.ie = true → s.complete.irq = true) ∧
    (s.hostWrite 0x014 4 0x6).irq = false ∧
    ((s.hostWrite 0x010 4 1).irq = true ↔ s.flags.done = true ∨ s.flags.err = true)

/-- The other registers of R20's map, their offsets written out: an idle write to an operand register or SHIFTV stores
the word, one to a read-only register is ignored, and nothing else changes, no flag either. -/
def Obligations.IdleRegisterWritesStoreOrAreIgnored : Prop :=
  ∀ (s : State) (v : Word), s.busy = false →
    s.hostWrite 0x020 4 v = { s with ops := { s.ops with src0 := v } } ∧
    s.hostWrite 0x024 4 v = { s with ops := { s.ops with src1 := v } } ∧
    s.hostWrite 0x028 4 v = { s with ops := { s.ops with src2 := v } } ∧
    s.hostWrite 0x02C 4 v = { s with ops := { s.ops with dst := v } } ∧
    s.hostWrite 0x030 4 v = { s with ops := { s.ops with count := v } } ∧
    s.hostWrite 0x034 4 v = { s with ops := { s.ops with rows := v } } ∧
    s.hostWrite 0x038 4 v = { s with ops := { s.ops with cols := v } } ∧
    s.hostWrite 0x03C 4 v = { s with ops := { s.ops with cap := v } } ∧
    s.hostWrite 0x040 4 v = { s with ops := { s.ops with xfN := v } } ∧
    s.hostWrite 0x044 4 v = { s with shiftv := v } ∧
    ∀ a ∈ [0x000, 0x004, 0x008, 0x00C, 0x018, 0x048, 0x04C, 0x050, 0x06C, 0x070, 0x074, 0x078, 0x07C, 0x090, 0x094,
      0x098], s.hostWrite a 4 v = s
end

