-- ==== Sys2Proof/Laws/Arith.lean ====
section
/-! SUPPORT. The small facts of the width functions, of saturation, and of the vectors of the transform family. -/

namespace Sys2Proof.Machine

theorem clamp_range (x lo hi : Int) (h : lo ≤ hi) : lo ≤ clamp x lo hi ∧ clamp x lo hi ≤ hi := by
  simp only [clamp]; omega

theorem clamp_of_range (x lo hi : Int) (h1 : lo ≤ x) (h2 : x ≤ hi) : clamp x lo hi = x := by
  simp only [clamp]; omega

theorem sat32_range (x : Int) : -2 ^ 31 ≤ sat32 x ∧ sat32 x ≤ 2 ^ 31 - 1 := clamp_range _ _ _ (by decide)

theorem sat16_range (x : Int) : -2 ^ 15 ≤ sat16 x ∧ sat16 x ≤ 2 ^ 15 - 1 := clamp_range _ _ _ (by decide)

theorem clips32_eq_false_iff (x : Int) : clips32 x = false ↔ -2 ^ 31 ≤ x ∧ x ≤ 2 ^ 31 - 1 := by
  rw [clips32, decide_eq_false_iff_not, not_not]; simp only [sat32, clamp]; omega

theorem clips16_eq_false_iff (x : Int) : clips16 x = false ↔ -2 ^ 15 ≤ x ∧ x ≤ 2 ^ 15 - 1 := by
  rw [clips16, decide_eq_false_iff_not, not_not]; simp only [sat16, clamp]; omega

theorem sext_word_range (w : Word) : -2 ^ 31 ≤ sext w ∧ sext w ≤ 2 ^ 31 - 1 := by
  have h1 := BitVec.toInt_lt (x := w)
  have h2 := BitVec.le_toInt (x := w)
  simp only [sext]
  norm_num at h1 h2 ⊢
  omega

/-- bits_32 then sext_32 gives back an integer in the range of 32 bits (R9). -/
theorem sext_bits32 (x : Int) (h1 : -2 ^ 31 ≤ x) (h2 : x ≤ 2 ^ 31 - 1) : sext (bits32 x) = x := by
  simp only [sext, bits32, BitVec.toInt_ofInt]
  norm_num at h1 h2
  rw [Int.bmod_eq_of_le] <;> norm_num <;> omega

theorem sext_bits32_sat32 (x : Int) : sext (bits32 (sat32 x)) = sat32 x :=
  sext_bits32 _ (sat32_range x).1 (sat32_range x).2

theorem sext_bits32_sat16 (x : Int) : sext (bits32 (sat16 x)) = sat16 x := by
  have := sat16_range x
  exact sext_bits32 _ (by norm_num at this ⊢; omega) (by norm_num at this ⊢; omega)

theorem cosq_range (M m : Nat) : -2 ^ 30 ≤ cosq M m ∧ cosq M m ≤ 2 ^ 30 := clamp_range _ _ _ (by decide)

theorem sinq_range (M m : Nat) : -2 ^ 30 ≤ sinq M m ∧ sinq M m ≤ 2 ^ 30 := clamp_range _ _ _ (by decide)

theorem hannq_range (F m : Nat) : 0 ≤ hannq F m ∧ hannq F m ≤ 2 ^ 15 := clamp_range _ _ _ (by decide)

@[simp] theorem vec_length {α : Type} (n : Nat) (f : Nat → α) : (vec n f).length = n := by simp [vec]

theorem vec_getElem? {α : Type} (n : Nat) (f : Nat → α) (i : Nat) :
    (vec n f)[i]? = if i < n then some (f i) else none := by
  by_cases h : i < n <;> simp [vec, h]

theorem elemAt_vec (n : Nat) (f : Nat → Int) (i : Nat) (h : i < n) : elemAt (vec n f) i = f i := by
  simp [elemAt, vec, h]

theorem elemAt_append_left (a b : List Int) (i : Nat) (h : i < a.length) : elemAt (a ++ b) i = elemAt a i := by
  simp [elemAt, List.getD, List.getElem?_append_left h]

theorem elemAt_append_right (a b : List Int) (i : Nat) (h : a.length ≤ i) :
    elemAt (a ++ b) i = elemAt b (i - a.length) := by
  simp [elemAt, List.getD, List.getElem?_append_right h]

/-- A sum over a vector is a sum over its indices. -/
theorem sumFrom_vec {α : Type} (f : Nat → α → Int) (g : Nat → α) (n : Nat) :
    sumFrom f 0 (vec n g) = ∑ i ∈ Finset.range n, f i (g i) := by
  have key : ∀ (l : List Nat) (m : Nat), (∀ j (h : j < l.length), l[j] = m + j) →
      sumFrom f m (l.map g) = ∑ i ∈ Finset.range l.length, f (m + i) (g (m + i)) := by
    intro l
    induction l with
    | nil => intro m _; simp [sumFrom]
    | cons a l ih =>
      intro m hl
      have ha : a = m := by
        have := hl 0 (by simp)
        simp only [List.getElem_cons_zero] at this; omega
      have := ih (m + 1) (fun j h => by
        have := hl (j + 1) (by simpa using h)
        simp only [List.getElem_cons_succ] at this; omega)
      simp only [List.map_cons, sumFrom, this, List.length_cons, Finset.sum_range_succ', ha, Nat.add_zero]
      rw [add_comm]
      congr 1
      exact Finset.sum_congr rfl fun i _ => by rw [show m + 1 + i = m + (i + 1) by omega]
  have := key (List.range n) 0 (by simp)
  simpa [vec] using this

end Sys2Proof.Machine
end

