-- ==== Sys2Proof/Laws/State.lean ====
section
/-! SUPPORT. One lemma for each field of State and each update of State: what the field is afterwards. -/

namespace Sys2Proof.Machine

open Sys2Proof.Config (RamId)

section
variable (s : State)

@[simp] theorem State.note_cfg (a b : Bool) : (s.note a b).cfg = s.cfg := rfl
@[simp] theorem State.note_ie (a b : Bool) : (s.note a b).ie = s.ie := rfl
@[simp] theorem State.note_flags (a b : Bool) : (s.note a b).flags = { s.flags with sat := s.flags.sat || a, divz := s.flags.divz || b } := rfl
@[simp] theorem State.note_errinfo (a b : Bool) : (s.note a b).errinfo = s.errinfo := rfl
@[simp] theorem State.note_cmd (a b : Bool) : (s.note a b).cmd = s.cmd := rfl
@[simp] theorem State.note_ops (a b : Bool) : (s.note a b).ops = s.ops := rfl
@[simp] theorem State.note_shiftv (a b : Bool) : (s.note a b).shiftv = s.shiftv := rfl
@[simp] theorem State.note_res (a b : Bool) : (s.note a b).res = s.res := rfl
@[simp] theorem State.note_quant (a b : Bool) : (s.note a b).quant = s.quant := rfl
@[simp] theorem State.note_scl (a b : Bool) : (s.note a b).scl = s.scl := rfl
@[simp] theorem State.note_profv (a b : Bool) : (s.note a b).profv = s.profv := rfl
@[simp] theorem State.note_ram (a b : Bool) : (s.note a b).ram = s.ram := rfl
@[simp] theorem State.note_inflight (a b : Bool) : (s.note a b).inflight = s.inflight := rfl
@[simp] theorem State.note_rdata (a b : Bool) : (s.note a b).rdata = s.rdata := rfl
@[simp] theorem State.note_agenda (a b : Bool) : (s.note a b).agenda = s.agenda := rfl
@[simp] theorem State.note_draws (a b : Bool) : (s.note a b).draws = s.draws := rfl
@[simp] theorem State.note_epoch (a b : Bool) : (s.note a b).epoch = s.epoch := rfl

@[simp] theorem State.noteBusErr_cfg : (s.noteBusErr).cfg = s.cfg := rfl
@[simp] theorem State.noteBusErr_ie : (s.noteBusErr).ie = s.ie := rfl
@[simp] theorem State.noteBusErr_flags : (s.noteBusErr).flags = { s.flags with buserr := true } := rfl
@[simp] theorem State.noteBusErr_errinfo : (s.noteBusErr).errinfo = s.errinfo := rfl
@[simp] theorem State.noteBusErr_cmd : (s.noteBusErr).cmd = s.cmd := rfl
@[simp] theorem State.noteBusErr_ops : (s.noteBusErr).ops = s.ops := rfl
@[simp] theorem State.noteBusErr_shiftv : (s.noteBusErr).shiftv = s.shiftv := rfl
@[simp] theorem State.noteBusErr_res : (s.noteBusErr).res = s.res := rfl
@[simp] theorem State.noteBusErr_quant : (s.noteBusErr).quant = s.quant := rfl
@[simp] theorem State.noteBusErr_scl : (s.noteBusErr).scl = s.scl := rfl
@[simp] theorem State.noteBusErr_profv : (s.noteBusErr).profv = s.profv := rfl
@[simp] theorem State.noteBusErr_ram : (s.noteBusErr).ram = s.ram := rfl
@[simp] theorem State.noteBusErr_inflight : (s.noteBusErr).inflight = s.inflight := rfl
@[simp] theorem State.noteBusErr_rdata : (s.noteBusErr).rdata = s.rdata := rfl
@[simp] theorem State.noteBusErr_agenda : (s.noteBusErr).agenda = s.agenda := rfl
@[simp] theorem State.noteBusErr_draws : (s.noteBusErr).draws = s.draws := rfl
@[simp] theorem State.noteBusErr_epoch : (s.noteBusErr).epoch = s.epoch := rfl

@[simp] theorem State.noteHostErr_cfg (b : Bool) : (s.noteHostErr b).cfg = s.cfg := rfl
@[simp] theorem State.noteHostErr_ie (b : Bool) : (s.noteHostErr b).ie = s.ie := rfl
@[simp] theorem State.noteHostErr_flags (b : Bool) : (s.noteHostErr b).flags = { s.flags with hosterr := s.flags.hosterr || b } := rfl
@[simp] theorem State.noteHostErr_errinfo (b : Bool) : (s.noteHostErr b).errinfo = s.errinfo := rfl
@[simp] theorem State.noteHostErr_cmd (b : Bool) : (s.noteHostErr b).cmd = s.cmd := rfl
@[simp] theorem State.noteHostErr_ops (b : Bool) : (s.noteHostErr b).ops = s.ops := rfl
@[simp] theorem State.noteHostErr_shiftv (b : Bool) : (s.noteHostErr b).shiftv = s.shiftv := rfl
@[simp] theorem State.noteHostErr_res (b : Bool) : (s.noteHostErr b).res = s.res := rfl
@[simp] theorem State.noteHostErr_quant (b : Bool) : (s.noteHostErr b).quant = s.quant := rfl
@[simp] theorem State.noteHostErr_scl (b : Bool) : (s.noteHostErr b).scl = s.scl := rfl
@[simp] theorem State.noteHostErr_profv (b : Bool) : (s.noteHostErr b).profv = s.profv := rfl
@[simp] theorem State.noteHostErr_ram (b : Bool) : (s.noteHostErr b).ram = s.ram := rfl
@[simp] theorem State.noteHostErr_inflight (b : Bool) : (s.noteHostErr b).inflight = s.inflight := rfl
@[simp] theorem State.noteHostErr_rdata (b : Bool) : (s.noteHostErr b).rdata = s.rdata := rfl
@[simp] theorem State.noteHostErr_agenda (b : Bool) : (s.noteHostErr b).agenda = s.agenda := rfl
@[simp] theorem State.noteHostErr_draws (b : Bool) : (s.noteHostErr b).draws = s.draws := rfl
@[simp] theorem State.noteHostErr_epoch (b : Bool) : (s.noteHostErr b).epoch = s.epoch := rfl

@[simp] theorem State.complete_cfg : (s.complete).cfg = s.cfg := rfl
@[simp] theorem State.complete_ie : (s.complete).ie = s.ie := rfl
@[simp] theorem State.complete_flags : (s.complete).flags = { s.flags with done := true } := rfl
@[simp] theorem State.complete_errinfo : (s.complete).errinfo = s.errinfo := rfl
@[simp] theorem State.complete_cmd : (s.complete).cmd = s.cmd := rfl
@[simp] theorem State.complete_ops : (s.complete).ops = s.ops := rfl
@[simp] theorem State.complete_shiftv : (s.complete).shiftv = s.shiftv := rfl
@[simp] theorem State.complete_res : (s.complete).res = s.res := rfl
@[simp] theorem State.complete_quant : (s.complete).quant = s.quant := rfl
@[simp] theorem State.complete_scl : (s.complete).scl = s.scl := rfl
@[simp] theorem State.complete_profv : (s.complete).profv = s.profv := rfl
@[simp] theorem State.complete_ram : (s.complete).ram = s.ram := rfl
@[simp] theorem State.complete_inflight : (s.complete).inflight = none := rfl
@[simp] theorem State.complete_rdata : (s.complete).rdata = s.rdata := rfl
@[simp] theorem State.complete_agenda : (s.complete).agenda = s.agenda := rfl
@[simp] theorem State.complete_draws : (s.complete).draws = s.draws := rfl
@[simp] theorem State.complete_epoch : (s.complete).epoch = s.epoch := rfl

@[simp] theorem State.raiseError_cfg (c : ErrCode) : (s.raiseError c).cfg = s.cfg := rfl
@[simp] theorem State.raiseError_ie (c : ErrCode) : (s.raiseError c).ie = s.ie := rfl
@[simp] theorem State.raiseError_flags (c : ErrCode) : (s.raiseError c).flags = { s.flags with err := true } := rfl
@[simp] theorem State.raiseError_errinfo (c : ErrCode) : (s.raiseError c).errinfo = errinfoWord c.code s.cmd := rfl
@[simp] theorem State.raiseError_cmd (c : ErrCode) : (s.raiseError c).cmd = s.cmd := rfl
@[simp] theorem State.raiseError_ops (c : ErrCode) : (s.raiseError c).ops = s.ops := rfl
@[simp] theorem State.raiseError_shiftv (c : ErrCode) : (s.raiseError c).shiftv = s.shiftv := rfl
@[simp] theorem State.raiseError_res (c : ErrCode) : (s.raiseError c).res = s.res := rfl
@[simp] theorem State.raiseError_quant (c : ErrCode) : (s.raiseError c).quant = s.quant := rfl
@[simp] theorem State.raiseError_scl (c : ErrCode) : (s.raiseError c).scl = s.scl := rfl
@[simp] theorem State.raiseError_profv (c : ErrCode) : (s.raiseError c).profv = s.profv := rfl
@[simp] theorem State.raiseError_ram (c : ErrCode) : (s.raiseError c).ram = s.ram := rfl
@[simp] theorem State.raiseError_inflight (c : ErrCode) : (s.raiseError c).inflight = none := rfl
@[simp] theorem State.raiseError_rdata (c : ErrCode) : (s.raiseError c).rdata = s.rdata := rfl
@[simp] theorem State.raiseError_agenda (c : ErrCode) : (s.raiseError c).agenda = s.agenda := rfl
@[simp] theorem State.raiseError_draws (c : ErrCode) : (s.raiseError c).draws = s.draws := rfl
@[simp] theorem State.raiseError_epoch (c : ErrCode) : (s.raiseError c).epoch = s.epoch := rfl

@[simp] theorem State.store_cfg (r : RamId) (a : Nat) (bs : List Byte) : (s.store r a bs).cfg = s.cfg := rfl
@[simp] theorem State.store_ie (r : RamId) (a : Nat) (bs : List Byte) : (s.store r a bs).ie = s.ie := rfl
@[simp] theorem State.store_flags (r : RamId) (a : Nat) (bs : List Byte) : (s.store r a bs).flags = s.flags := rfl
@[simp] theorem State.store_errinfo (r : RamId) (a : Nat) (bs : List Byte) : (s.store r a bs).errinfo = s.errinfo := rfl
@[simp] theorem State.store_cmd (r : RamId) (a : Nat) (bs : List Byte) : (s.store r a bs).cmd = s.cmd := rfl
@[simp] theorem State.store_ops (r : RamId) (a : Nat) (bs : List Byte) : (s.store r a bs).ops = s.ops := rfl
@[simp] theorem State.store_shiftv (r : RamId) (a : Nat) (bs : List Byte) : (s.store r a bs).shiftv = s.shiftv := rfl
@[simp] theorem State.store_res (r : RamId) (a : Nat) (bs : List Byte) : (s.store r a bs).res = s.res := rfl
@[simp] theorem State.store_quant (r : RamId) (a : Nat) (bs : List Byte) : (s.store r a bs).quant = s.quant := rfl
@[simp] theorem State.store_scl (r : RamId) (a : Nat) (bs : List Byte) : (s.store r a bs).scl = s.scl := rfl
@[simp] theorem State.store_profv (r : RamId) (a : Nat) (bs : List Byte) : (s.store r a bs).profv = s.profv := rfl
@[simp] theorem State.store_ram (r : RamId) (a : Nat) (bs : List Byte) : (s.store r a bs).ram = s.ram.set r ((s.ram.get r).store a bs) := rfl
@[simp] theorem State.store_inflight (r : RamId) (a : Nat) (bs : List Byte) : (s.store r a bs).inflight = s.inflight := rfl
@[simp] theorem State.store_rdata (r : RamId) (a : Nat) (bs : List Byte) : (s.store r a bs).rdata = s.rdata := rfl
@[simp] theorem State.store_agenda (r : RamId) (a : Nat) (bs : List Byte) : (s.store r a bs).agenda = s.agenda := rfl
@[simp] theorem State.store_draws (r : RamId) (a : Nat) (bs : List Byte) : (s.store r a bs).draws = s.draws := rfl
@[simp] theorem State.store_epoch (r : RamId) (a : Nat) (bs : List Byte) : (s.store r a bs).epoch = s.epoch := rfl

@[simp] theorem State.storeWords_cfg (r : RamId) (i : Nat) (ws : List Word) : (s.storeWords r i ws).cfg = s.cfg := rfl
@[simp] theorem State.storeWords_ie (r : RamId) (i : Nat) (ws : List Word) : (s.storeWords r i ws).ie = s.ie := rfl
@[simp] theorem State.storeWords_flags (r : RamId) (i : Nat) (ws : List Word) : (s.storeWords r i ws).flags = s.flags := rfl
@[simp] theorem State.storeWords_errinfo (r : RamId) (i : Nat) (ws : List Word) : (s.storeWords r i ws).errinfo = s.errinfo := rfl
@[simp] theorem State.storeWords_cmd (r : RamId) (i : Nat) (ws : List Word) : (s.storeWords r i ws).cmd = s.cmd := rfl
@[simp] theorem State.storeWords_ops (r : RamId) (i : Nat) (ws : List Word) : (s.storeWords r i ws).ops = s.ops := rfl
@[simp] theorem State.storeWords_shiftv (r : RamId) (i : Nat) (ws : List Word) : (s.storeWords r i ws).shiftv = s.shiftv := rfl
@[simp] theorem State.storeWords_res (r : RamId) (i : Nat) (ws : List Word) : (s.storeWords r i ws).res = s.res := rfl
@[simp] theorem State.storeWords_quant (r : RamId) (i : Nat) (ws : List Word) : (s.storeWords r i ws).quant = s.quant := rfl
@[simp] theorem State.storeWords_scl (r : RamId) (i : Nat) (ws : List Word) : (s.storeWords r i ws).scl = s.scl := rfl
@[simp] theorem State.storeWords_profv (r : RamId) (i : Nat) (ws : List Word) : (s.storeWords r i ws).profv = s.profv := rfl
@[simp] theorem State.storeWords_ram (r : RamId) (i : Nat) (ws : List Word) : (s.storeWords r i ws).ram = s.ram.set r ((s.ram.get r).store (4 * i) (ws.flatMap wordBytes)) := rfl
@[simp] theorem State.storeWords_inflight (r : RamId) (i : Nat) (ws : List Word) : (s.storeWords r i ws).inflight = s.inflight := rfl
@[simp] theorem State.storeWords_rdata (r : RamId) (i : Nat) (ws : List Word) : (s.storeWords r i ws).rdata = s.rdata := rfl
@[simp] theorem State.storeWords_agenda (r : RamId) (i : Nat) (ws : List Word) : (s.storeWords r i ws).agenda = s.agenda := rfl
@[simp] theorem State.storeWords_draws (r : RamId) (i : Nat) (ws : List Word) : (s.storeWords r i ws).draws = s.draws := rfl
@[simp] theorem State.storeWords_epoch (r : RamId) (i : Nat) (ws : List Word) : (s.storeWords r i ws).epoch = s.epoch := rfl

@[simp] theorem State.storeHist_cfg (hs : List Half) : (s.storeHist hs).cfg = s.cfg := rfl
@[simp] theorem State.storeHist_ie (hs : List Half) : (s.storeHist hs).ie = s.ie := rfl
@[simp] theorem State.storeHist_flags (hs : List Half) : (s.storeHist hs).flags = s.flags := rfl
@[simp] theorem State.storeHist_errinfo (hs : List Half) : (s.storeHist hs).errinfo = s.errinfo := rfl
@[simp] theorem State.storeHist_cmd (hs : List Half) : (s.storeHist hs).cmd = s.cmd := rfl
@[simp] theorem State.storeHist_ops (hs : List Half) : (s.storeHist hs).ops = s.ops := rfl
@[simp] theorem State.storeHist_shiftv (hs : List Half) : (s.storeHist hs).shiftv = s.shiftv := rfl
@[simp] theorem State.storeHist_res (hs : List Half) : (s.storeHist hs).res = s.res := rfl
@[simp] theorem State.storeHist_quant (hs : List Half) : (s.storeHist hs).quant = s.quant := rfl
@[simp] theorem State.storeHist_scl (hs : List Half) : (s.storeHist hs).scl = s.scl := rfl
@[simp] theorem State.storeHist_profv (hs : List Half) : (s.storeHist hs).profv = s.profv := rfl
@[simp] theorem State.storeHist_ram (hs : List Half) : (s.storeHist hs).ram = s.ram.set .hist ((s.ram.get .hist).store 0 (hs.flatMap halfBytes)) := rfl
@[simp] theorem State.storeHist_inflight (hs : List Half) : (s.storeHist hs).inflight = s.inflight := rfl
@[simp] theorem State.storeHist_rdata (hs : List Half) : (s.storeHist hs).rdata = s.rdata := rfl
@[simp] theorem State.storeHist_agenda (hs : List Half) : (s.storeHist hs).agenda = s.agenda := rfl
@[simp] theorem State.storeHist_draws (hs : List Half) : (s.storeHist hs).draws = s.draws := rfl
@[simp] theorem State.storeHist_epoch (hs : List Half) : (s.storeHist hs).epoch = s.epoch := rfl

@[simp] theorem State.setResults_cfg (x y : Nat) : (s.setResults x y).cfg = s.cfg := rfl
@[simp] theorem State.setResults_ie (x y : Nat) : (s.setResults x y).ie = s.ie := rfl
@[simp] theorem State.setResults_flags (x y : Nat) : (s.setResults x y).flags = s.flags := rfl
@[simp] theorem State.setResults_errinfo (x y : Nat) : (s.setResults x y).errinfo = s.errinfo := rfl
@[simp] theorem State.setResults_cmd (x y : Nat) : (s.setResults x y).cmd = s.cmd := rfl
@[simp] theorem State.setResults_ops (x y : Nat) : (s.setResults x y).ops = s.ops := rfl
@[simp] theorem State.setResults_shiftv (x y : Nat) : (s.setResults x y).shiftv = s.shiftv := rfl
@[simp] theorem State.setResults_res (x y : Nat) : (s.setResults x y).res = { res0 := BitVec.ofNat 32 x, res1 := BitVec.ofNat 32 y, res2 := s.ops.rows } := rfl
@[simp] theorem State.setResults_quant (x y : Nat) : (s.setResults x y).quant = s.quant := rfl
@[simp] theorem State.setResults_scl (x y : Nat) : (s.setResults x y).scl = s.scl := rfl
@[simp] theorem State.setResults_profv (x y : Nat) : (s.setResults x y).profv = s.profv := rfl
@[simp] theorem State.setResults_ram (x y : Nat) : (s.setResults x y).ram = s.ram := rfl
@[simp] theorem State.setResults_inflight (x y : Nat) : (s.setResults x y).inflight = s.inflight := rfl
@[simp] theorem State.setResults_rdata (x y : Nat) : (s.setResults x y).rdata = s.rdata := rfl
@[simp] theorem State.setResults_agenda (x y : Nat) : (s.setResults x y).agenda = s.agenda := rfl
@[simp] theorem State.setResults_draws (x y : Nat) : (s.setResults x y).draws = s.draws := rfl
@[simp] theorem State.setResults_epoch (x y : Nat) : (s.setResults x y).epoch = s.epoch := rfl

@[simp] theorem State.issue_cfg (w : Word) : (s.issue w).cfg = s.cfg := rfl
@[simp] theorem State.issue_ie (w : Word) : (s.issue w).ie = s.ie := rfl
@[simp] theorem State.issue_flags (w : Word) : (s.issue w).flags = s.flags := rfl
@[simp] theorem State.issue_errinfo (w : Word) : (s.issue w).errinfo = s.errinfo := rfl
@[simp] theorem State.issue_cmd (w : Word) : (s.issue w).cmd = w := rfl
@[simp] theorem State.issue_ops (w : Word) : (s.issue w).ops = s.ops := rfl
@[simp] theorem State.issue_shiftv (w : Word) : (s.issue w).shiftv = s.shiftv := rfl
@[simp] theorem State.issue_res (w : Word) : (s.issue w).res = s.res := rfl
@[simp] theorem State.issue_quant (w : Word) : (s.issue w).quant = s.quant := rfl
@[simp] theorem State.issue_scl (w : Word) : (s.issue w).scl = s.scl := rfl
@[simp] theorem State.issue_profv (w : Word) : (s.issue w).profv = s.profv := rfl
@[simp] theorem State.issue_ram (w : Word) : (s.issue w).ram = s.ram := rfl
@[simp] theorem State.issue_inflight (w : Word) : (s.issue w).inflight = some w := rfl
@[simp] theorem State.issue_rdata (w : Word) : (s.issue w).rdata = s.rdata := rfl
@[simp] theorem State.issue_agenda (w : Word) : (s.issue w).agenda = s.agenda := rfl
@[simp] theorem State.issue_draws (w : Word) : (s.issue w).draws = s.draws := rfl
@[simp] theorem State.issue_epoch (w : Word) : (s.issue w).epoch = s.epoch := rfl

@[simp] theorem State.scramble_cfg (r : RamId) (a k : Nat) : (s.scramble r a k).cfg = s.cfg := rfl
@[simp] theorem State.scramble_ie (r : RamId) (a k : Nat) : (s.scramble r a k).ie = s.ie := rfl
@[simp] theorem State.scramble_flags (r : RamId) (a k : Nat) : (s.scramble r a k).flags = s.flags := rfl
@[simp] theorem State.scramble_errinfo (r : RamId) (a k : Nat) : (s.scramble r a k).errinfo = s.errinfo := rfl
@[simp] theorem State.scramble_cmd (r : RamId) (a k : Nat) : (s.scramble r a k).cmd = s.cmd := rfl
@[simp] theorem State.scramble_ops (r : RamId) (a k : Nat) : (s.scramble r a k).ops = s.ops := rfl
@[simp] theorem State.scramble_shiftv (r : RamId) (a k : Nat) : (s.scramble r a k).shiftv = s.shiftv := rfl
@[simp] theorem State.scramble_res (r : RamId) (a k : Nat) : (s.scramble r a k).res = s.res := rfl
@[simp] theorem State.scramble_quant (r : RamId) (a k : Nat) : (s.scramble r a k).quant = s.quant := rfl
@[simp] theorem State.scramble_scl (r : RamId) (a k : Nat) : (s.scramble r a k).scl = s.scl := rfl
@[simp] theorem State.scramble_profv (r : RamId) (a k : Nat) : (s.scramble r a k).profv = s.profv := rfl
@[simp] theorem State.scramble_ram (r : RamId) (a k : Nat) : (s.scramble r a k).ram = s.ram.set r ((s.ram.get r).store a ((List.range k).map (fun j => Config.freeByte (s.draws + j)))) := rfl
@[simp] theorem State.scramble_inflight (r : RamId) (a k : Nat) : (s.scramble r a k).inflight = s.inflight := rfl
@[simp] theorem State.scramble_rdata (r : RamId) (a k : Nat) : (s.scramble r a k).rdata = s.rdata := rfl
@[simp] theorem State.scramble_agenda (r : RamId) (a k : Nat) : (s.scramble r a k).agenda = s.agenda := rfl
@[simp] theorem State.scramble_draws (r : RamId) (a k : Nat) : (s.scramble r a k).draws = s.draws + k := rfl
@[simp] theorem State.scramble_epoch (r : RamId) (a k : Nat) : (s.scramble r a k).epoch = s.epoch := rfl

@[simp] theorem State.writeStatus_cfg (v : Word) : (s.writeStatus v).cfg = s.cfg := rfl
@[simp] theorem State.writeStatus_ie (v : Word) : (s.writeStatus v).ie = s.ie := rfl
@[simp] theorem State.writeStatus_flags (v : Word) : (s.writeStatus v).flags = s.flags.clearedBy v := rfl
@[simp] theorem State.writeStatus_errinfo (v : Word) : (s.writeStatus v).errinfo = s.errinfo := rfl
@[simp] theorem State.writeStatus_cmd (v : Word) : (s.writeStatus v).cmd = s.cmd := rfl
@[simp] theorem State.writeStatus_ops (v : Word) : (s.writeStatus v).ops = s.ops := rfl
@[simp] theorem State.writeStatus_shiftv (v : Word) : (s.writeStatus v).shiftv = s.shiftv := rfl
@[simp] theorem State.writeStatus_res (v : Word) : (s.writeStatus v).res = s.res := rfl
@[simp] theorem State.writeStatus_quant (v : Word) : (s.writeStatus v).quant = s.quant := rfl
@[simp] theorem State.writeStatus_scl (v : Word) : (s.writeStatus v).scl = s.scl := rfl
@[simp] theorem State.writeStatus_profv (v : Word) : (s.writeStatus v).profv = s.profv := rfl
@[simp] theorem State.writeStatus_ram (v : Word) : (s.writeStatus v).ram = s.ram := rfl
@[simp] theorem State.writeStatus_inflight (v : Word) : (s.writeStatus v).inflight = s.inflight := rfl
@[simp] theorem State.writeStatus_rdata (v : Word) : (s.writeStatus v).rdata = s.rdata := rfl
@[simp] theorem State.writeStatus_agenda (v : Word) : (s.writeStatus v).agenda = s.agenda := rfl
@[simp] theorem State.writeStatus_draws (v : Word) : (s.writeStatus v).draws = s.draws := rfl
@[simp] theorem State.writeStatus_epoch (v : Word) : (s.writeStatus v).epoch = s.epoch := rfl

end

end Sys2Proof.Machine
end

