-- ==== Sys2Proof/Laws/Memory.lean ====
section
/-! SUPPORT. What a write to a RAM does: read after write, everything else left alone, and the canonical form kept. -/

namespace Sys2Proof.Machine

open Sys2Proof.Config (RamId)

theorem cellsFrom_key_range (bs : List Byte) (a : Nat) (c : Host.Cell) (h : c ∈ cellsFrom a bs) :
    a ≤ c.1 ∧ c.1 < a + bs.length := by
  induction bs generalizing a with
  | nil => simp [cellsFrom] at h
  | cons b bs ih =>
    simp only [cellsFrom, List.mem_cons] at h
    rcases h with rfl | h
    · simp
    · have := ih (a + 1) h
      simp only [List.length_cons]; omega

theorem Memory.find_append (m k : Memory) (a : Nat) :
    Memory.find (m ++ k) a = (Memory.find m a).or (Memory.find k a) := by
  induction m with
  | nil => simp [Memory.find]
  | cons c m ih => by_cases h : c.1 = a <;> simp [Memory.find, h, ih]

theorem Memory.find_filter (m : Memory) (p : Nat → Bool) (a : Nat) :
    Memory.find (m.filter (fun c => p c.1)) a = if p a then Memory.find m a else none := by
  induction m with
  | nil => simp [Memory.find]
  | cons c m ih =>
    by_cases hp : p c.1
    · by_cases h : c.1 = a
      · subst h; simp [Memory.find, hp]
      · simp [Memory.find, hp, h, ih]
    · by_cases h : c.1 = a
      · subst h; simp [hp, ih]
      · simp [Memory.find, hp, h, ih]

theorem Memory.find_cellsFrom (bs : List Byte) (a x : Nat) :
    Memory.find (cellsFrom a bs) x = if a ≤ x then bs[x - a]? else none := by
  induction bs generalizing a with
  | nil => simp [cellsFrom, Memory.find]
  | cons b bs ih =>
    by_cases h : a = x
    · subst h; simp [cellsFrom, Memory.find]
    · by_cases hx : a ≤ x
      · have h1 : a + 1 ≤ x := by omega
        have h2 : x - a = (x - (a + 1)) + 1 := by omega
        simp [cellsFrom, Memory.find, h, ih, hx, h1, h2]
      · have h1 : ¬a + 1 ≤ x := by omega
        simp [cellsFrom, Memory.find, h, ih, hx, h1]

/-- Read after write, for every offset. -/
theorem Memory.find_store (m : Memory) (a x : Nat) (bs : List Byte) :
    Memory.find (m.store a bs) x = if a ≤ x ∧ x < a + bs.length then bs[x - a]? else Memory.find m x := by
  have h1 := Memory.find_filter m (fun k => decide (k < a)) x
  have h2 := Memory.find_filter m (fun k => decide (a + bs.length ≤ k)) x
  simp only [Memory.store, Memory.find_append, h1, h2, Memory.find_cellsFrom]
  by_cases hlo : x < a
  · have : ¬a ≤ x := by omega
    have : ¬a + bs.length ≤ x := by omega
    simp [*]
  · by_cases hhi : a + bs.length ≤ x
    · have h3 : a ≤ x := by omega
      have h4 : ¬x < a + bs.length := by omega
      have h5 : bs[x - a]? = none := by simp; omega
      simp [*]
    · have h3 : a ≤ x := by omega
      have h4 : x < a + bs.length := by omega
      simp [*]

/-- Every write keeps the canonical form. -/
theorem Memory.store_wf (m : Memory) (a : Nat) (bs : List Byte) (h : m.wf) : (m.store a bs).wf := by
  have hc : ∀ (bs : List Byte) (a : Nat), (cellsFrom a bs).Pairwise (fun c d => c.1 < d.1) := by
    intro bs
    induction bs with
    | nil => intro a; simp [cellsFrom]
    | cons b bs ih =>
      intro a
      simp only [cellsFrom, List.pairwise_cons]
      exact ⟨fun c hm => by have := cellsFrom_key_range bs (a + 1) c hm; omega, ih _⟩
  simp only [Memory.wf, Memory.store, List.append_assoc, List.pairwise_append]
  refine ⟨h.filter _, ⟨hc bs a, h.filter _, ?_⟩, ?_⟩
  · intro c hm d hd
    have := cellsFrom_key_range bs a c hm
    simp only [List.mem_filter, decide_eq_true_eq] at hd
    omega
  · intro c hm d hd
    simp only [List.mem_filter, decide_eq_true_eq] at hm
    rcases List.mem_append.1 hd with hd | hd
    · have := cellsFrom_key_range bs a d hd; omega
    · simp only [List.mem_filter, decide_eq_true_eq] at hd; omega

/-- A write below `size` keeps every offset below `size`. -/
theorem Memory.store_within (m : Memory) (a size : Nat) (bs : List Byte) (h : m.within size)
    (hb : bs = [] ∨ a + bs.length ≤ size) : (m.store a bs).within size := by
  intro c hc
  simp only [Memory.store, List.append_assoc, List.mem_append, List.mem_filter] at hc
  rcases hc with hc | hc | hc
  · exact h c hc.1
  · have := cellsFrom_key_range bs a c hc
    rcases hb with rfl | hb
    · simp at this; omega
    · omega
  · exact h c hc.1

@[simp] theorem Rams.get_set (r : Rams) (x y : RamId) (m : Memory) :
    (r.set x m).get y = if y = x then m else r.get y := by cases x <;> cases y <;> rfl

/-- Read after write, for every byte of every RAM. -/
theorem State.ramByte_store (s : State) (r r' : RamId) (a x : Nat) (bs : List Byte) :
    (s.store r a bs).ramByte r' x =
      if h : r' = r ∧ a ≤ x ∧ x < a + bs.length then bs[x - a]'(by omega) else s.ramByte r' x := by
  by_cases hr : r' = r
  · subst hr
    by_cases hx : a ≤ x ∧ x < a + bs.length
    · have : x - a < bs.length := by omega
      simp [State.ramByte, Memory.find_store, hx, List.getElem?_eq_getElem this]
    · simp only [State.ramByte, State.store_ram, Rams.get_set, if_true, Memory.find_store, if_neg hx,
        State.store_epoch, true_and, dif_neg hx]
  · simp [State.ramByte, hr]

@[simp] theorem wordBytes_length (w : Word) : (wordBytes w).length = 4 := rfl

@[simp] theorem halfBytes_length (h : Half) : (halfBytes h).length = 2 := rfl

theorem flatMap_wordBytes_length (ws : List Word) : (ws.flatMap wordBytes).length = 4 * ws.length := by
  induction ws with
  | nil => rfl
  | cons w ws ih => simp only [List.flatMap_cons, List.length_append, wordBytes_length, ih, List.length_cons]; omega

theorem flatMap_halfBytes_length (hs : List Half) : (hs.flatMap halfBytes).length = 2 * hs.length := by
  induction hs with
  | nil => rfl
  | cons h hs ih => simp only [List.flatMap_cons, List.length_append, halfBytes_length, ih, List.length_cons]; omega

theorem flatMap_wordBytes_get (ws : List Word) (j k : Nat) (hj : j < ws.length) (hk : k < 4) :
    (ws.flatMap wordBytes)[4 * j + k]? = some (ws[j].extractLsb' (8 * k) 8) := by
  induction ws generalizing j with
  | nil => simp at hj
  | cons w ws ih =>
    cases j with
    | zero =>
      simp only [List.flatMap_cons, Nat.mul_zero, Nat.zero_add, List.getElem_cons_zero]
      rw [List.getElem?_append_left (by simpa using hk)]
      match k, hk with
      | 0, _ => rfl
      | 1, _ => rfl
      | 2, _ => rfl
      | 3, _ => rfl
    | succ j =>
      simp only [List.flatMap_cons, List.getElem_cons_succ]
      rw [List.getElem?_append_right (by simp; omega)]
      have : 4 * (j + 1) + k - (wordBytes w).length = 4 * j + k := by simp; omega
      rw [this]
      exact ih j (by simpa using hj)

theorem flatMap_halfBytes_get (hs : List Half) (j k : Nat) (hj : j < hs.length) (hk : k < 2) :
    (hs.flatMap halfBytes)[2 * j + k]? = some (hs[j].extractLsb' (8 * k) 8) := by
  induction hs generalizing j with
  | nil => simp at hj
  | cons w ws ih =>
    cases j with
    | zero =>
      simp only [List.flatMap_cons, Nat.mul_zero, Nat.zero_add, List.getElem_cons_zero]
      rw [List.getElem?_append_left (by simpa using hk)]
      match k, hk with
      | 0, _ => rfl
      | 1, _ => rfl
    | succ j =>
      simp only [List.flatMap_cons, List.getElem_cons_succ]
      rw [List.getElem?_append_right (by simp; omega)]
      have : 2 * (j + 1) + k - (halfBytes w).length = 2 * j + k := by simp; omega
      rw [this]
      exact ih j (by simpa using hj)

theorem word_of_bytes (w : Word) :
    w.extractLsb' 24 8 ++ w.extractLsb' 16 8 ++ w.extractLsb' 8 8 ++ w.extractLsb' 0 8 = w := by
  apply BitVec.eq_of_getLsbD_eq
  intro i hi
  simp only [BitVec.getLsbD_append, BitVec.getLsbD_extractLsb']
  by_cases h1 : i < 8
  · simp [h1]
  · by_cases h2 : i < 16
    · simp [h1, show i - 8 < 8 by omega, show 8 + (i - 8) = i by omega]
    · by_cases h3 : i < 24
      · simp [h1, show ¬i - 8 < 8 by omega, show i - 8 - 8 < 8 by omega, show 16 + (i - 8 - 8) = i by omega]
      · simp [h1, show ¬i - 8 < 8 by omega, show ¬i - 8 - 8 < 8 by omega, show i - 8 - 8 - 8 < 8 by omega,
          show 24 + (i - 8 - 8 - 8) = i by omega]

theorem half_of_bytes (w : Half) : w.extractLsb' 8 8 ++ w.extractLsb' 0 8 = w := by
  apply BitVec.eq_of_getLsbD_eq
  intro i hi
  simp only [BitVec.getLsbD_append, BitVec.getLsbD_extractLsb']
  by_cases h1 : i < 8
  · simp [h1]
  · simp [h1, show i - 8 < 8 by omega, show 8 + (i - 8) = i by omega]

/-- One byte after a write of words. -/
theorem State.ramByte_storeWords (s : State) (r r' : RamId) (i x : Nat) (ws : List Word) :
    (s.storeWords r i ws).ramByte r' x =
      if h : r' = r ∧ 4 * i ≤ x ∧ x < 4 * (i + ws.length) then
        (ws[(x - 4 * i) / 4]'(by omega)).extractLsb' (8 * ((x - 4 * i) % 4)) 8
      else s.ramByte r' x := by
  have hl := flatMap_wordBytes_length ws
  rw [State.storeWords, State.ramByte_store]
  by_cases h : r' = r ∧ 4 * i ≤ x ∧ x < 4 * (i + ws.length)
  · rw [dif_pos ⟨h.1, h.2.1, by omega⟩, dif_pos h]
    have := flatMap_wordBytes_get ws ((x - 4 * i) / 4) ((x - 4 * i) % 4) (by omega) (by omega)
    have he : 4 * ((x - 4 * i) / 4) + (x - 4 * i) % 4 = x - 4 * i := by omega
    rw [he, List.getElem?_eq_getElem (by omega)] at this
    exact Option.some.inj this
  · rw [dif_neg (fun h' => h ⟨h'.1, h'.2.1, by omega⟩), dif_neg h]

/-- An element of a 32-bit RAM after a write of words. -/
theorem State.ramWord_storeWords (s : State) (r r' : RamId) (i j : Nat) (ws : List Word) :
    (s.storeWords r i ws).ramWord r' (4 * j) =
      if h : r' = r ∧ i ≤ j ∧ j < i + ws.length then ws[j - i]'(by omega) else s.ramWord r' (4 * j) := by
  simp only [State.ramWord, State.ramByte_storeWords]
  by_cases h : r' = r ∧ i ≤ j ∧ j < i + ws.length
  · obtain ⟨hr, h1, h2⟩ := h
    subst hr
    rw [dif_pos ⟨rfl, by omega, by omega⟩, dif_pos ⟨rfl, by omega, by omega⟩, dif_pos ⟨rfl, by omega, by omega⟩,
      dif_pos ⟨rfl, by omega, by omega⟩, dif_pos ⟨rfl, h1, h2⟩]
    have e3 : (4 * j + 3 - 4 * i) / 4 = j - i := by omega
    have e2 : (4 * j + 2 - 4 * i) / 4 = j - i := by omega
    have e1 : (4 * j + 1 - 4 * i) / 4 = j - i := by omega
    have e0 : (4 * j - 4 * i) / 4 = j - i := by omega
    have m3 : 8 * ((4 * j + 3 - 4 * i) % 4) = 24 := by omega
    have m2 : 8 * ((4 * j + 2 - 4 * i) % 4) = 16 := by omega
    have m1 : 8 * ((4 * j + 1 - 4 * i) % 4) = 8 := by omega
    have m0 : 8 * ((4 * j - 4 * i) % 4) = 0 := by omega
    simp only [e3, e2, e1, e0, m3, m2, m1, m0]
    exact word_of_bytes _
  · rw [dif_neg (fun h' => h ⟨h'.1, by omega, by omega⟩), dif_neg (fun h' => h ⟨h'.1, by omega, by omega⟩),
      dif_neg (fun h' => h ⟨h'.1, by omega, by omega⟩), dif_neg (fun h' => h ⟨h'.1, by omega, by omega⟩), dif_neg h]

/-- DMEM after a write of words to DMEM. -/
theorem State.dmemWord_storeWords (s : State) (i j : Nat) (ws : List Word) :
    (s.storeWords .dmem i ws).dmemWord j =
      if h : i ≤ j ∧ j < i + ws.length then ws[j - i]'(by omega) else s.dmemWord j := by
  have := s.ramWord_storeWords .dmem .dmem i j ws
  simpa [State.dmemWord] using this

/-- One byte after a write of HIST entries from entry 0 on. -/
theorem State.ramByte_storeHist (s : State) (r' : RamId) (x : Nat) (hs : List Half) :
    (s.storeHist hs).ramByte r' x =
      if h : r' = .hist ∧ x < 2 * hs.length then
        (hs[x / 2]'(by omega)).extractLsb' (8 * (x % 2)) 8
      else s.ramByte r' x := by
  have hl := flatMap_halfBytes_length hs
  rw [State.storeHist, State.ramByte_store]
  by_cases h : r' = .hist ∧ x < 2 * hs.length
  · rw [dif_pos ⟨h.1, by omega, by omega⟩, dif_pos h]
    have := flatMap_halfBytes_get hs (x / 2) (x % 2) (by omega) (by omega)
    have he : 2 * (x / 2) + x % 2 = x - 0 := by omega
    rw [he, List.getElem?_eq_getElem (by omega)] at this
    exact Option.some.inj this
  · rw [dif_neg (fun h' => h ⟨h'.1, by omega⟩), dif_neg h]

/-- HIST after a write of HIST entries from entry 0 on. -/
theorem State.histEntry_storeHist (s : State) (j : Nat) (hs : List Half) :
    (s.storeHist hs).histEntry j = if h : j < hs.length then hs[j] else s.histEntry j := by
  simp only [State.histEntry, State.ramByte_storeHist, true_and]
  by_cases h : j < hs.length
  · rw [dif_pos (by omega), dif_pos (by omega), dif_pos h]
    have e1 : (2 * j + 1) / 2 = j := by omega
    have e0 : (2 * j) / 2 = j := by omega
    have m1 : 8 * ((2 * j + 1) % 2) = 8 := by omega
    have m0 : 8 * ((2 * j) % 2) = 0 := by omega
    simp only [e1, e0, m1, m0]
    exact half_of_bytes _
  · rw [dif_neg (fun h' => h (by omega)), dif_neg (fun h' => h (by omega)), dif_neg h]

/-- A write to one RAM leaves the bytes of the others. -/
theorem State.ramByte_store_other (s : State) (r r' : RamId) (a x : Nat) (bs : List Byte) (h : r' ≠ r) :
    (s.store r a bs).ramByte r' x = s.ramByte r' x := by
  rw [State.ramByte_store, dif_neg (by simp [h])]

section
variable (s : State)

@[simp] theorem State.note_ramByte (a b : Bool) (r : RamId) (x : Nat) :
    (s.note a b).ramByte r x = s.ramByte r x := rfl

@[simp] theorem State.complete_ramByte (r : RamId) (x : Nat) : s.complete.ramByte r x = s.ramByte r x := rfl

@[simp] theorem State.raiseError_ramByte (c : ErrCode) (r : RamId) (x : Nat) :
    (s.raiseError c).ramByte r x = s.ramByte r x := rfl

@[simp] theorem State.setResults_ramByte (a b : Nat) (r : RamId) (x : Nat) :
    (s.setResults a b).ramByte r x = s.ramByte r x := rfl

@[simp] theorem State.note_dmemWord (a b : Bool) (i : Nat) : (s.note a b).dmemWord i = s.dmemWord i := rfl

@[simp] theorem State.complete_dmemWord (i : Nat) : s.complete.dmemWord i = s.dmemWord i := rfl

end

end Sys2Proof.Machine
end

