-- ==== Sys2Proof/Laws/Elements.lean ====
section
/-! SUPPORT. Everything the element loop of R125 does: which state it leaves alone, what each element reads and writes,
and when it raises the sticky flags. -/

namespace Sys2Proof.Machine

open Sys2Proof.Config (RamId)

/-- One pass of the loop. -/
theorem elementLoop_succ (f : State → Nat → Elem) (dst k i : Nat) (s : State) :
    elementLoop f dst (k + 1) i s =
      elementLoop f dst k (i + 1) ((s.storeWords .dmem (dst + i) [(f s i).word]).note (f s i).sat (f s i).divz) := rfl

/-- The last pass of the loop. -/
theorem elementLoop_succ_last (f : State → Nat → Elem) (dst k i : Nat) (s : State) :
    elementLoop f dst (k + 1) i s =
      (((elementLoop f dst k i s).storeWords .dmem (dst + (i + k)) [(f (elementLoop f dst k i s) (i + k)).word]).note
        (f (elementLoop f dst k i s) (i + k)).sat (f (elementLoop f dst k i s) (i + k)).divz) := by
  induction k generalizing i s with
  | zero => rfl
  | succ k ih =>
    rw [elementLoop_succ, ih]
    have : i + 1 + k = i + (k + 1) := by omega
    rw [this, elementLoop_succ f dst k i s]

/-- The loop leaves every field but the RAMs and the flags. -/
theorem elementLoop_fields (f : State → Nat → Elem) (dst k i : Nat) (s : State) :
    elementLoop f dst k i s =
      { s with ram := (elementLoop f dst k i s).ram, flags := (elementLoop f dst k i s).flags } := by
  induction k generalizing i s with
  | zero => rfl
  | succ k ih => rw [elementLoop_succ, ih]; rfl

section
variable (f : State → Nat → Elem) (dst k i : Nat) (s : State)

@[simp] theorem elementLoop_cfg : (elementLoop f dst k i s).cfg = s.cfg := by rw [elementLoop_fields]
@[simp] theorem elementLoop_ie : (elementLoop f dst k i s).ie = s.ie := by rw [elementLoop_fields]
@[simp] theorem elementLoop_errinfo : (elementLoop f dst k i s).errinfo = s.errinfo := by rw [elementLoop_fields]
@[simp] theorem elementLoop_cmd : (elementLoop f dst k i s).cmd = s.cmd := by rw [elementLoop_fields]
@[simp] theorem elementLoop_ops : (elementLoop f dst k i s).ops = s.ops := by rw [elementLoop_fields]
@[simp] theorem elementLoop_shiftv : (elementLoop f dst k i s).shiftv = s.shiftv := by rw [elementLoop_fields]
@[simp] theorem elementLoop_res : (elementLoop f dst k i s).res = s.res := by rw [elementLoop_fields]
@[simp] theorem elementLoop_quant : (elementLoop f dst k i s).quant = s.quant := by rw [elementLoop_fields]
@[simp] theorem elementLoop_scl : (elementLoop f dst k i s).scl = s.scl := by rw [elementLoop_fields]
@[simp] theorem elementLoop_profv : (elementLoop f dst k i s).profv = s.profv := by rw [elementLoop_fields]
@[simp] theorem elementLoop_inflight : (elementLoop f dst k i s).inflight = s.inflight := by rw [elementLoop_fields]
@[simp] theorem elementLoop_rdata : (elementLoop f dst k i s).rdata = s.rdata := by rw [elementLoop_fields]
@[simp] theorem elementLoop_agenda : (elementLoop f dst k i s).agenda = s.agenda := by rw [elementLoop_fields]
@[simp] theorem elementLoop_draws : (elementLoop f dst k i s).draws = s.draws := by rw [elementLoop_fields]
@[simp] theorem elementLoop_epoch : (elementLoop f dst k i s).epoch = s.epoch := by rw [elementLoop_fields]

end

/-- The bytes outside the loop's destination words are left alone. -/
theorem elementLoop_ramByte (f : State → Nat → Elem) (dst k i : Nat) (s : State) (r : RamId) (x : Nat)
    (h : ¬(r = .dmem ∧ 4 * (dst + i) ≤ x ∧ x < 4 * (dst + i + k))) :
    (elementLoop f dst k i s).ramByte r x = s.ramByte r x := by
  induction k generalizing i s with
  | zero => rfl
  | succ k ih =>
    rw [elementLoop_succ, ih _ _ (fun h' => h ⟨h'.1, by omega, by omega⟩), State.note_ramByte,
      State.ramByte_storeWords, dif_neg]
    intro h'
    simp only [List.length_cons, List.length_nil] at h'
    exact h ⟨h'.1, by omega, by omega⟩

/-- The DMEM words outside the loop's destination are left alone. -/
theorem elementLoop_dmemWord_outside (f : State → Nat → Elem) (dst k i : Nat) (s : State) (x : Nat)
    (h : ¬(dst + i ≤ x ∧ x < dst + i + k)) :
    (elementLoop f dst k i s).dmemWord x = s.dmemWord x := by
  simp only [State.dmemWord, State.ramWord]
  rw [elementLoop_ramByte, elementLoop_ramByte, elementLoop_ramByte, elementLoop_ramByte] <;>
    exact fun h' => h ⟨by omega, by omega⟩

/-- A longer run leaves what a shorter one wrote: its first `j` elements are those of the run of `j` elements. -/
theorem elementLoop_dmemWord_prefix (f : State → Nat → Elem) (dst k : Nat) (s : State) (j x : Nat) (hj : j ≤ k)
    (hx : ¬(dst + j ≤ x ∧ x < dst + k)) :
    (elementLoop f dst k 0 s).dmemWord x = (elementLoop f dst j 0 s).dmemWord x := by
  induction k with
  | zero => have : j = 0 := by omega
            subst this; rfl
  | succ k ih =>
    by_cases hjk : j = k + 1
    · subst hjk; rfl
    · rw [elementLoop_succ_last, State.note_dmemWord, State.dmemWord_storeWords, dif_neg]
      · exact ih (by omega) (by omega)
      · simp only [List.length_cons, List.length_nil]; omega

/-- What element j of the loop writes. -/
theorem elementLoop_dmemWord (f : State → Nat → Elem) (dst k : Nat) (s : State) (j : Nat) (hj : j < k) :
    (elementLoop f dst k 0 s).dmemWord (dst + j) = (f (elementLoop f dst j 0 s) j).word := by
  rw [elementLoop_dmemWord_prefix f dst k s (j + 1) (dst + j) (by omega) (by omega), elementLoop_succ_last,
    State.note_dmemWord, State.dmemWord_storeWords, dif_pos]
  · simp
  · simp

/-- What element j reads at a DMEM index: the final word where an earlier element wrote, else the word before the
command (R125). -/
theorem elementLoop_dmemWord_read (f : State → Nat → Elem) (dst k : Nat) (s : State) (j x : Nat) (hj : j < k) :
    (elementLoop f dst j 0 s).dmemWord x =
      if dst ≤ x ∧ x < dst + j then (elementLoop f dst k 0 s).dmemWord x else s.dmemWord x := by
  by_cases h : dst ≤ x ∧ x < dst + j
  · rw [if_pos h, elementLoop_dmemWord_prefix f dst k s j x (by omega) (by omega)]
  · rw [if_neg h, elementLoop_dmemWord_outside _ _ _ _ _ _ (by omega)]

/-- The flags after the loop: SAT and DIVZ as its elements raise them, the others unchanged. -/
theorem elementLoop_flags (f : State → Nat → Elem) (dst k : Nat) (s : State) :
    (elementLoop f dst k 0 s).flags =
      { s.flags with
        sat := s.flags.sat || (List.range k).any (fun j => (f (elementLoop f dst j 0 s) j).sat)
        divz := s.flags.divz || (List.range k).any (fun j => (f (elementLoop f dst j 0 s) j).divz) } := by
  induction k with
  | zero => simp [elementLoop]
  | succ k ih =>
    rw [elementLoop_succ_last, State.note_flags, State.storeWords_flags, ih]
    simp [List.range_succ, List.any_append, Bool.or_assoc]

/-- The element loop keeps the canonical form of every RAM. -/
theorem elementLoop_wf (f : State → Nat → Elem) (dst k i : Nat) (s : State) (h : ∀ r, (s.ram.get r).wf) (r : RamId) :
    ((elementLoop f dst k i s).ram.get r).wf := by
  induction k generalizing i s with
  | zero => exact h r
  | succ k ih =>
    rw [elementLoop_succ]
    refine ih _ _ fun r' => ?_
    simp only [State.note_ram, State.storeWords_ram, Rams.get_set]
    split
    · exact Memory.store_wf _ _ _ (h _)
    · exact h r'

end Sys2Proof.Machine
end

