-- ==== Sys2Proof/Laws/PerInstr.lean ====
section
/-! SUPPORT. The family Row of LAWS.json: a well-formed command's word matches its row of the opcode table (R91). -/

namespace Sys2Proof.Laws.Row

/-- (encode i AND mask) = match, for the row of i in opcode_table.json. -/
def Statement (i : Instr) : Prop :=
  i.WellFormed → ∃ row, opcodeTable[i.tableRow]? = some row ∧ encode i &&& row.1 = row.2

theorem profiles (row : Word × Word) (opc : Nat) (prof : Nat) (h : prof < 16)
    (hall : ∀ p : Fin 16, commandWord opc false false p &&& row.1 = row.2) :
    commandWord opc false false prof &&& row.1 = row.2 := hall ⟨prof, h⟩

theorem nop : Statement .nop := fun _ => ⟨_, rfl, by decide⟩
theorem xfReset : Statement .xfReset := fun _ => ⟨_, rfl, by decide⟩
theorem mdctFwd (zin : Bool) : Statement (.mdctFwd zin) := fun _ => ⟨_, rfl, by cases zin <;> decide⟩
theorem mdctInv (nowr : Bool) : Statement (.mdctInv nowr) := fun _ => ⟨_, rfl, by cases nowr <;> decide⟩
theorem stftFwd (zin : Bool) : Statement (.stftFwd zin) := fun _ => ⟨_, rfl, by cases zin <;> decide⟩
theorem stftInv (nowr : Bool) : Statement (.stftInv nowr) := fun _ => ⟨_, rfl, by cases nowr <;> decide⟩
theorem qConfig : Statement .qConfig := fun _ => ⟨_, rfl, by decide⟩
theorem quant : Statement .quant := fun _ => ⟨_, rfl, by decide⟩
theorem dequant : Statement .dequant := fun _ => ⟨_, rfl, by decide⟩
theorem compand : Statement .compand := fun _ => ⟨_, rfl, by decide⟩
theorem expand : Statement .expand := fun _ => ⟨_, rfl, by decide⟩
theorem sConfig : Statement .sConfig := fun _ => ⟨_, rfl, by decide⟩
theorem scale : Statement .scale := fun _ => ⟨_, rfl, by decide⟩
theorem recip : Statement .recip := fun _ => ⟨_, rfl, by decide⟩
theorem mupd : Statement .mupd := fun _ => ⟨_, rfl, by decide⟩
theorem shift : Statement .shift := fun _ => ⟨_, rfl, by decide⟩
theorem unshift : Statement .unshift := fun _ => ⟨_, rfl, by decide⟩
theorem ecEncode (prof : Nat) : Statement (.ecEncode prof) := fun h =>
  ⟨_, rfl, profiles _ _ prof (of_decide_eq_true h) (by decide)⟩
theorem ecDecode (prof : Nat) : Statement (.ecDecode prof) := fun h =>
  ⟨_, rfl, profiles _ _ prof (of_decide_eq_true h) (by decide)⟩

end Sys2Proof.Laws.Row
end

