-- ==== Sys2Proof/Laws/Tables.lean ====
section
/-! SUPPORT. The mu-law tables of 43_quant_compand.md R213: both start at 0 and end at 65536. -/

namespace Sys2Proof.Machine

/-- An integer is the nearest to itself and to no other. -/
theorem Nearest.eq_of_int {z v : Int} (h : Nearest z v) : v = z := by
  have h1 : |v - z| < 1 := by
    have : |((v - z : Int) : ℝ)| < 1 := by push_cast; linarith [h.1]
    exact_mod_cast this
  have := abs_lt.mp h1
  omega

theorem MuLawClut.ends {μ : ℝ} {lutLog2 : Nat} {T : Nat → Int} (hμ : 0 < μ) (h : MuLawClut μ lutLog2 T) :
    T 0 = 0 ∧ T (2 ^ lutLog2) = 65536 := by
  have hl : Real.log (1 + μ) ≠ 0 := (Real.log_pos (by linarith)).ne'
  have hp : (2 : ℝ) ^ lutLog2 ≠ 0 := by positivity
  have h0 := h 0 (Nat.zero_le _)
  have h1 := h (2 ^ lutLog2) le_rfl
  constructor
  · exact Nearest.eq_of_int (z := 0) (by simpa using h0)
  · refine Nearest.eq_of_int (z := 65536) ?_
    push_cast at h1 ⊢
    rwa [mul_div_assoc μ, div_self hp, mul_one, mul_div_assoc, div_self hl, mul_one] at h1

theorem MuLawElut.ends {μ : ℝ} {lutLog2 : Nat} {T : Nat → Int} (hμ : 0 < μ) (h : MuLawElut μ lutLog2 T) :
    T 0 = 0 ∧ T (2 ^ lutLog2) = 65536 := by
  have hp : (2 : ℝ) ^ lutLog2 ≠ 0 := by positivity
  have h0 := h 0 (Nat.zero_le _)
  have h1 := h (2 ^ lutLog2) le_rfl
  constructor
  · exact Nearest.eq_of_int (z := 0) (by simpa using h0)
  · refine Nearest.eq_of_int (z := 65536) ?_
    push_cast at h1 ⊢
    rwa [div_self hp, Real.rpow_one, add_sub_cancel_left, mul_div_assoc, div_self hμ.ne', mul_one] at h1

end Sys2Proof.Machine
end

