-- ==== Sys2Proof/Tests/Slice0.lean ====
section
/-! SUPPORT. Tests by value, their results taken from spec/95_test_vectors.md (the vector's name stands in each test's
docstring) or written out from the rule cited, and for every statement with hypotheses a witness that meets them. -/

namespace Sys2Proof.Tests

open Sys2Proof Sys2Proof.Machine Sys2Proof.Config

/-! ### Small states -/

/-- A small instance: 4 HIST entries, 1024 DMEM words, tables of 3, one profile of 6 symbols. -/
def params : Params := { nmax := 4, dmemWords := 1024, lutLog2 := 1, nprof := 1, nsym := 6, base := 0x80000 }

/-- The small instance after a hard reset. -/
def idle : State := { State.reset with cfg := params }

/-- Integers in DMEM from index `a` on. -/
def put (a : Nat) (xs : List Int) (s : State) : State := s.storeWords .dmem a (xs.map bits32)

/-- The integers in DMEM from index `a` on. -/
def got (s : State) (a n : Nat) : List Int := (List.range n).map (fun i => s.dmemInt (a + i))

/-- SRC0, DST and COUNT. -/
def vecOps (src0 dst count : Nat) : OperandRegs :=
  { OperandRegs.reset with
    src0 := BitVec.ofNat 32 src0, dst := BitVec.ofNat 32 dst, count := BitVec.ofNat 32 count }

/-- `idle` with SRC0, DST and COUNT, and integers at DMEM[0 ..]. -/
def vecState (src0 dst count : Nat) (xs : List Int) : State := put 0 xs { idle with ops := vecOps src0 dst count }

/-- `idle` with XF_N, SRC0 = 0 and DST = 8, the overlap memories HIST and OLA, and integers at DMEM[0 ..]. -/
def xfState (n : Nat) (hist ola xs : List Int) : State :=
  put 0 xs ((({ idle with ops := { vecOps 0 8 0 with xfN := BitVec.ofNat 32 n } } : State).storeHist
    (hist.map (BitVec.ofInt 16))).storeWords .ola 0 (ola.map bits32))

/-- The quantizer configured as vectors Q1, Q2 and Q4 say. -/
def q1 : QuantRegs :=
  { qMin := 0, qMax := 65536, qLevels := 32, qRcp := 2031616, qStep := 9079837958408, qValid := true }
def q2 : QuantRegs :=
  { qMin := bits32 (-65536), qMax := 65536, qLevels := 256, qRcp := 8355840, qStep := 2207646876162, qValid := true }
def q4 : QuantRegs :=
  { qMin := bits32 (-2147483648), qMax := 2147483647, qLevels := 65536, qRcp := 65535, qStep := 281479271677952,
    qValid := true }

/-- The scaler configured as vector L5 says. -/
def l5 : ScaleRegs :=
  { oldMin := bits32 (-131072), oldMax := 131072, newMin := bits32 (-65536), newMax := 65536, k := 1073741824,
    sValid := true }

/-- The grid of the entropy tests: the code table 0, 10, 110, 111 of 95_test_vectors.md section 8 in profile 0 (no
code for symbols 4 and 5), profile 0 registered. -/
def ecState (src0 dst count rows cols cap : Nat) (xs : List Int) : State :=
  put 0 xs (({ idle with
    profv := 1
    ops := { vecOps src0 dst count with
      rows := BitVec.ofNat 32 rows, cols := BitVec.ofNat 32 cols, cap := BitVec.ofNat 32 cap } } : State).storeWords
    .ct 0 [0x01000000, 0x02000002, 0x03000006, 0x03000007, 0, 0])

/-- The table with the single code 0 = "1" (vectors H18 to H20). -/
def oneCode (count cols : Nat) (stream : Int) : State :=
  (ecState 0 8 count 1 cols 0 [stream]).storeWords .ct 0 [0x01000001, 0, 0, 0, 0, 0]

/-- What the next state holds. -/
def gives (o : Host.Outcome State Fault Refusal) (p : State → Bool) : Bool :=
  match o with
  | .next t => p t
  | .fault _ => false
  | .refused _ => false

/-- The word `w` issued in `s` and performed by the next step; STATUS bits 6:1 of the result are `flags`. -/
def ran (w : Nat) (s : State) (flags : Word) (p : State → Bool) : Bool :=
  gives (step (s.withFetchWord 32 w)) (fun t => t.statusWord == flags && p t)

/-- The word ends with an error: ERR, and this ERRINFO. -/
def refusedWith (w : Nat) (s : State) (errinfo : Word) : Bool := ran w s 0x4 (fun t => t.errinfo == errinfo)

/-- One host access at a window offset, as a step; the value read and STATUS after it. -/
def accessed (a width : Nat) (op : BusOp) (s : State) (p : State → Bool) : Bool :=
  gives (step { s with agenda := [.bus { addr := s.cfg.base + a, width := width, op := op }] }) p

/-! ### Well-formedness and decoding -/

/-- PROF has 4 bits (R90): the checks refuse 16. -/
theorem test_wellFormed_refuses_wide_profile :
    ¬(Instr.ecEncode 16).WellFormed ∧ ¬(Instr.ecDecode 16).WellFormed := by decide

/-- The opcodes of R92 with the fields of R90, word by word. -/
theorem test_decode_every_row :
    decode 0b0000_0000_0000_0000_0000_0000_0000_0000 = .ok .nop ∧
    decode 0b0000_0000_0000_0000_0000_0000_0000_0001 = .ok .xfReset ∧
    decode 0b0000_0000_0000_0000_0000_0000_0001_0000 = .ok (.mdctFwd false) ∧
    decode 0b0000_0000_0000_0000_0000_0001_0001_0000 = .ok (.mdctFwd true) ∧
    decode 0b0000_0000_0000_0000_0000_0000_0001_0001 = .ok (.mdctInv false) ∧
    decode 0b0000_0000_0000_0000_0000_0010_0001_0001 = .ok (.mdctInv true) ∧
    decode 0b0000_0000_0000_0000_0000_0001_0001_0010 = .ok (.stftFwd true) ∧
    decode 0b0000_0000_0000_0000_0000_0010_0001_0011 = .ok (.stftInv true) ∧
    decode 0b0000_0000_0000_0000_0000_0000_0010_0000 = .ok .qConfig ∧
    decode 0b0000_0000_0000_0000_0000_0000_0010_0001 = .ok .quant ∧
    decode 0b0000_0000_0000_0000_0000_0000_0010_0010 = .ok .dequant ∧
    decode 0b0000_0000_0000_0000_0000_0000_0010_0011 = .ok .compand ∧
    decode 0b0000_0000_0000_0000_0000_0000_0010_0100 = .ok .expand ∧
    decode 0b0000_0000_0000_0000_0000_0000_0010_1000 = .ok .sConfig ∧
    decode 0b0000_0000_0000_0000_0000_0000_0010_1001 = .ok .scale ∧
    decode 0b0000_0000_0000_0000_0000_0000_0010_1010 = .ok .recip ∧
    decode 0b0000_0000_0000_0000_0000_0000_0010_1011 = .ok .mupd ∧
    decode 0b0000_0000_0000_0000_0000_0000_0010_1100 = .ok .shift ∧
    decode 0b0000_0000_0000_0000_0000_0000_0010_1101 = .ok .unshift ∧
    decode 0b0000_0000_0000_0101_0000_0000_0011_0000 = .ok (.ecEncode 5) ∧
    decode 0b0000_0000_0000_1111_0000_0000_0011_0001 = .ok (.ecDecode 15) := by decide

/-- Vectors C2 to C10, X8, X9. -/
theorem test_illegal_words :
    refusedWith 0x00000002 idle 0x0201 ∧ refusedWith 0x000000FF idle 0xFF01 ∧ refusedWith 0x00000025 idle 0x2501 ∧
    refusedWith 0x00000100 idle 0x0002 ∧ refusedWith 0x00010000 idle 0x0002 ∧ refusedWith 0x00400030 idle 0x3002 ∧
    refusedWith 0x00008031 idle 0x3102 ∧ refusedWith 0x80000021 idle 0x2102 ∧ refusedWith 0x00000310 idle 0x1002 ∧
    refusedWith 0x00000210 idle 0x1002 ∧ refusedWith 0x00000111 idle 0x1102 := by decide

/-! ### One command, one step -/

/-- C1. -/
theorem test_nop_completes : ran 0x00 idle 0x2 (fun t => t == { idle with flags := t.flags }) := by decide

/-- X1, at the last entries of the small instance. -/
theorem test_xfReset_zeroes_last_entries :
    ran 0x01 (xfState 0 [1, 2, 3, 7] [1, 2, 3, 9] []) 0x2 (fun t => t.histEntry 3 == 0 && t.olaWord 3 == 0) := by
  decide

/-- D1; and D5, where the samples are at the ends of their range. -/
theorem test_mdctFwd_d1_d5 :
    ran 0x10 (xfState 2 [0, 0] [] [1, 2]) 0x2 (fun t => got t 8 2 == [-3, -1] && t.histEntry 1 == 2) ∧
    ran 0x10 (xfState 2 [32767, -32768] [] [-32768, 32767]) 0x2 (fun t => got t 8 2 == [25080, -60546]) := by decide

/-- D9: ZIN. -/
theorem test_mdctFwd_d9_zin :
    ran 0x110 (xfState 4 [1000, -2000, 3000, -4000] [] []) 0x2
      (fun t => got t 8 4 == [1802, -2126, -3182, 9061] && t.histEntry 0 == 0) := by decide

/-- D11. -/
theorem test_mdctInv_d11 :
    ran 0x11 (xfState 4 [] [-384035, 127995, 127995, -384035] [1802, -2126, -3182, 9061]) 0x2
      (fun t => got t 8 4 == [1000, -2000, 3000, -4000] && (t.olaWord 1).toInt == 28) := by decide

/-- D7: both saturations, and SAT. -/
theorem test_mdctInv_d7_saturates :
    ran 0x11 (xfState 2 [] [0, 0] [2147483647, -2147483648]) 0xA
      (fun t => got t 8 2 == [32767, -32768] && (t.olaWord 0).toInt == -2147483648) := by decide

/-- T5. -/
theorem test_stftFwd_t5 :
    ran 0x12 (xfState 4 [0, 0, 0, 0] [] [1000, 2000, -1000, 500]) 0x2
      (fun t => got t 8 10 == [2280, 0, -2155, 759, 1500, -1634, 155, 1759, -1280, 0]) := by decide

/-- X6 and X7: a hop of 3 is legal for the STFT, a hop of 0 is not. -/
theorem test_stftFwd_hop_legality :
    ran 0x112 (xfState 3 [0, 0, 0] [] []) 0x2 (fun _ => true) ∧ refusedWith 0x12 (xfState 0 [] [] []) 0x1203 := by
  decide

/-- T8. -/
theorem test_stftInv_t8 :
    ran 0x13 (xfState 4 [] [256000, 436986, -128000, 18757] [220, 0, -95, -9, 500, 134, 95, -1009, -1220, 0]) 0x2
      (fun t => got t 8 4 == [1000, 2000, -1000, 500] && (t.olaWord 3).toInt == -12) := by decide

/-- T3 with the ignored im[0] and im[n] (R153), and NOWR. -/
theorem test_stftInv_t3_nowr :
    ran 0x213 (put 8 [77] (xfState 2 [] [0, 0] [0, 5, -100, -100, 200, 7])) 0x2
      (fun t => (t.olaWord 0).toInt == 25600 && (t.olaWord 1).toInt == -25600 && t.dmemInt 8 == 77) := by decide

/-- Q2 and Q4. -/
theorem test_qConfig_factors :
    ran 0x20 { idle with quant := { q2 with qRcp := 0, qStep := 0, qValid := false } } 0x2 (fun t => t.quant == q2) ∧
    ran 0x20 { idle with quant := { q4 with qRcp := 0, qStep := 0, qValid := false } } 0x2
      (fun t => t.quant == q4) := by decide

/-- Q8 and Q9. -/
theorem test_qConfig_refuses :
    refusedWith 0x20 { idle with quant := { q1 with qMin := 65536, qMax := 0 } } 0x2008 ∧
    refusedWith 0x20 { idle with quant := { q1 with qMin := 65536, qLevels := 1 } } 0x2003 := by decide

/-- Q10, Q12. -/
theorem test_quant_rounds_and_clamps :
    ran 0x21 { vecState 0 8 5 [-65536, 131072, 32768, 1058, 3172] with quant := q1 } 0x2
      (fun t => got t 8 5 == [0, 31, 16, 1, 2]) ∧
    ran 0x21 { vecState 0 8 2 [0, -1] with quant := q4 } 0x2 (fun t => got t 8 2 == [32768, 32767]) := by decide

/-- Q14: NOT_CONFIGURED before ADDR_RANGE. -/
theorem test_quant_not_configured_first : refusedWith 0x21 (vecState 1024 0 1 []) 0x2104 := by decide

/-- Q10; and Q12, whose last index clips. -/
theorem test_dequant_values :
    ran 0x22 { vecState 0 8 4 [21, 31, 32, 1] with quant := q1 } 0x2
      (fun t => got t 8 4 == [44395, 65536, 67650, 2114]) ∧
    ran 0x22 { vecState 0 8 2 [65535, 65536] with quant := q4 } 0xA
      (fun t => got t 8 2 == [2147483647, 2147483647]) := by decide

/-- An instance with tables of 257 entries, some of them loaded as section 7 says. -/
def muLaw (xs : List Int) : State :=
  ((((({ vecState 0 8 xs.length xs with cfg := { params with lutLog2 := 8 } } : State).storeWords .clut 0
    [0, bits32 8169]).storeWords .clut 64 [bits32 49290]).storeWords .clut 256 [bits32 65536]).storeWords .elut 12
    [bits32 76, bits32 84]).storeWords .elut 224 [bits32 32639, bits32 33360]

/-- U8, U9, U5. -/
theorem test_compand_interpolates :
    ran 0x23 (muLaw [100, -16384, -65536]) 0x2 (fun t => got t 8 3 == [3191, -49290, -65536]) := by decide

/-- U7. -/
theorem test_compand_clamps :
    ran 0x23 (muLaw [-2147483648]) 0xA (fun t => got t 8 1 == [-65536]) := by decide

/-- U8 and U2. -/
theorem test_expand_interpolates :
    ran 0x24 (muLaw [3191, -57390]) 0x2 (fun t => got t 8 2 == [80, -32769]) := by decide

/-- L4: a reversed range; L6: the largest factor. -/
theorem test_sConfig_factors :
    ran 0x28 { idle with scl := { ScaleRegs.reset with oldMin := 65536, newMax := 65536 } } 0x2
      (fun t => t.scl.k.toInt == -2147483648 && t.scl.sValid) ∧
    ran 0x28 { idle with scl := { ScaleRegs.reset with oldMax := 1, newMin := 0x80000000, newMax := 0x7FFFFFFF } }
      0x2 (fun t => t.scl.k.toInt == 9223372034707292160) := by decide

/-- L7. -/
theorem test_sConfig_refuses :
    refusedWith 0x28 { idle with scl := { l5 with oldMin := 65536, oldMax := 65536, sValid := false } } 0x2808 := by
  decide

/-- L5: a tie to even. -/
theorem test_scale_l5 :
    ran 0x29 { vecState 0 8 2 [131072, -131071] with scl := l5 } 0x2 (fun t => got t 8 2 == [65536, -65536]) := by
  decide

/-- L6 clips; L9 is not configured. -/
theorem test_scale_l6_l9 :
    ran 0x29 { vecState 0 8 2 [1, 2] with scl :=
        { l5 with oldMin := 0, oldMax := 1, newMin := 0x80000000, newMax := 0x7FFFFFFF, k := 9223372034707292160 } }
      0xA (fun t => got t 8 2 == [2147483647, 2147483647]) ∧
    refusedWith 0x29 (vecState 0 8 1 [1]) 0x2904 := by decide

/-- N4, N5, N8, N10. -/
theorem test_recip_values :
    ran 0x2A (vecState 0 8 4 [196608, -65536, 0, -2147483648]) 0x12
      (fun t => got t 8 4 == [21845, -65536, 2147483647, -2]) := by decide

/-- N7, N12, N13; and 2^32 / 2 = 2^31, which R182's SAT32 clips (log entry 22). -/
theorem test_recip_clips_and_regions :
    ran 0x2A (vecState 0 8 1 [2]) 0xA (fun t => got t 8 1 == [2147483647]) ∧
    ran 0x2A (vecState 0 8 1 [-1]) 0xA (fun t => got t 8 1 == [-2147483648]) ∧
    ran 0x2A (vecState 0xFFFFFFFF 8 0 []) 0x2 (fun t => t.ram == Rams.reset) ∧
    refusedWith 0x2A (vecState 1023 0 2 []) 0x2A06 := by decide

/-- a, b and c at DMEM[0], DMEM[8] and DMEM[16]. -/
def mupdState (a b c : List Int) : State :=
  put 16 c (put 8 b (put 0 a
    { idle with ops := { vecOps 0 24 a.length with src1 := 8, src2 := 16 } }))

/-- M3, M4, M5, M6, M10, M11. -/
theorem test_mupd_values :
    ran 0x2B (mupdState [196608, 65536, 65536, 0, 3, 1] [65536, 0, 5, 5, 1, 1] [131072, 0, 0, 0, 2, 2]) 0x12
      (fun t => got t 24 6 == [98304, 0, 2147483647, 0, 2, 0]) := by decide

/-- M7 and M13. -/
theorem test_mupd_refuses :
    refusedWith 0x2B (mupdState [1] [-1] [0]) 0x2B09 ∧
    refusedWith 0x2B { mupdState [1, 1] [-1, 1] [0, 0] with
      ops := { vecOps 0 1023 2 with src1 := 8, src2 := 16 } } 0x2B06 := by decide

/-- S7: each element sees the writes of the ones before it. -/
theorem test_shift_in_place_s7 :
    ran 0x2C (vecState 0 1 3 [-1, 5, 9]) 0x2 (fun t => got t 0 4 == [-1, 0, 1, 2] && t.shiftv == 1) := by decide

/-- S4 and S6. -/
theorem test_shift_s4_s6 :
    ran 0x2C (vecState 0 8 2 [-2147483648, 0]) 0xA
      (fun t => got t 8 2 == [0, 2147483647] && t.shiftv == 0x80000000) ∧
    refusedWith 0x2C (vecState 0 8 0 []) 0x2C03 := by decide

/-- S5: SHIFTV is unsigned. -/
theorem test_unshift_s5 :
    ran 0x2D { vecState 0 8 2 [0, 2147483647] with shiftv := 0x80000000 } 0x2
      (fun t => got t 8 2 == [-2147483648, -1]) := by decide

/-- H1. -/
theorem test_ecEncode_h1 :
    ran 0x30 (ecState 0 8 0 1 6 8 [0, 1, 2, 3, 0, 0]) 0x2
      (fun t => t.dmemWord 8 == 0x0000805B && t.res == { res0 := 2, res1 := 11, res2 := 1 }) := by decide

/-- H6, H9, H11, H14. -/
theorem test_ecEncode_refuses :
    refusedWith 0x30 (ecState 0 8 0 1 6 1 [0, 1, 2, 3, 0, 0]) 0x300B ∧
    refusedWith 0x30 (ecState 0 8 0 1 1 0 [4]) 0x300A ∧
    refusedWith 0x10030 (ecState 0 8 0 1 1 8 [0]) 0x3005 ∧
    refusedWith 0x30 (ecState 100 102 0 1 4 8 []) 0x3007 := by decide

/-- H2 and H5. -/
theorem test_ecDecode_h2_h5 :
    ran 0x31 (ecState 0 8 2 1 6 0 [0x805B]) 0x2
      (fun t => got t 8 6 == [0, 1, 2, 3, 0, 0] && t.res == { res0 := 6, res1 := 11, res2 := 1 }) ∧
    ran 0x31 (ecState 0 8 2 1 12 0 [0x805B]) 0x4
      (fun t => t.errinfo == 0x310C && got t 8 11 == [0, 1, 2, 3, 0, 0, 0, 0, 0, 0, 0] &&
        t.res == { res0 := 11, res1 := 16, res2 := 1 }) := by decide

/-- H19 and H20. -/
theorem test_ecDecode_h19_h20 :
    ran 0x31 (oneCode 4 1 0) 0x4 (fun t => t.errinfo == 0x310D && t.res.res1 == 24) ∧
    ran 0x31 (oneCode 1 3 0xC0) 0x4
      (fun t => t.errinfo == 0x310C && t.res.res1 == 8 && got t 8 2 == [0, 0]) := by decide

/-! ### The host's bus -/

/-- B1, B3, B4: the default instance. -/
theorem test_bus_identification :
    accessed 0x000 4 .read State.reset (fun t => t.rdata == 0x464D4E41) ∧
    accessed 0x008 4 .read State.reset (fun t => t.rdata == 0x00480800) ∧
    accessed 0x00C 4 .read State.reset (fun t => t.rdata == 0x02004000) := by decide

/-- B5 to B11. -/
theorem test_bus_error_offsets :
    accessed 0x0FC 4 .read State.reset (fun t => t.rdata == 0 && !t.flags.buserr) ∧
    accessed 0x100 4 .read State.reset (fun t => t.rdata == 0 && t.flags.buserr) ∧
    accessed 0x002 4 .read State.reset (fun t => t.flags.buserr) ∧
    accessed 0x000 2 .read State.reset (fun t => t.flags.buserr) ∧
    accessed 0x06000 4 .read State.reset (fun t => t.flags.buserr) ∧
    accessed 0x0C404 4 .read State.reset (fun t => t.flags.buserr) ∧
    accessed 0x10400 4 .read State.reset (fun t => t.flags.buserr) := by decide

/-- B12, and the CT vectors of section 8. -/
theorem test_bus_narrow_elements :
    ((State.reset.hostWrite 0x04000 4 0x12348000).hostRead 0x04000 4).rdata = 0xFFFF8000 ∧
    ((State.reset.hostWrite 0x10000 4 0xFF000001).hostRead 0x10000 4).rdata = 0x00000001 ∧
    ((State.reset.hostWrite 0x10000 4 0x18FFFFFF).hostRead 0x10000 4).rdata = 0x18FFFFFF := by decide

/-- B18 and B19, and R66 (d) for VERSION: writes while a NOP runs. -/
theorem test_bus_write_while_busy :
    accessed 0x004 4 (.write 5) (idle.issue 0) (fun t => t.flags.hosterr && t.inflight == some 0) ∧
    accessed 0x020 4 (.write 5) (idle.issue 0)
      (fun t => t.flags.hosterr && t.ops.src0 == 0 && t.inflight == some 0) ∧
    accessed 0x01C 4 (.write 1) (idle.issue 0) (fun t => t.flags.hosterr && t.inflight == some 0) := by decide

/-- B17: IRQ rises at the CTRL write. -/
theorem test_bus_irq_level :
    accessed 0x010 4 (.write 1) idle.complete (fun t => t.irq) ∧ idle.complete.irq = false := by decide

/-- Z5: a soft reset cancels MDCT_FWD; the element behind its destination stays. -/
theorem test_soft_reset_cancels :
    accessed 0x010 4 (.write 2) ((put 10 [7] (xfState 2 [] [] [])).issue 0x10)
      (fun t => t.statusWord == 0 && t.ops.xfN == 0 && t.dmemInt 10 == 7 && t.draws == 12) := by decide

/-- R130: with no host access left and BUSY = 0 the run has ended, and ERR then says that it failed, whatever a hard
reset that is still to come clears. -/
theorem test_failed_run_ends_before_pending_reset :
    ({ idle.raiseError .addrRange with agenda := [.sequencer, .hardReset] } : State).RunEnded ∧
    ¬({ idle.raiseError .addrRange with agenda := [.sequencer, .hardReset] } : State).RunSucceeded := by
  have h : ({ idle.raiseError .addrRange with agenda := [.sequencer, .hardReset] } : State).RunEnded := by
    unfold State.RunEnded; decide
  refine ⟨h, ?_⟩
  rintro ⟨_ | k, t, hk, he, -⟩
  · rw [← hk.1] at he
    exact absurd he (by decide)
  · exact hk.1 h

/-- R130: a host access still on the agenda, or BUSY = 1, and the run has not ended. -/
theorem test_run_goes_on :
    ¬({ idle with agenda := [.sequencer, rd params (.reg .status)] } : State).RunEnded ∧ ¬(idle.issue 0).RunEnded := by
  unfold State.RunEnded; decide

/-! ### Witnesses: for each statement with hypotheses, states and operands that meet them, clause by clause -/

theorem witness_DecodeOfEncode : (Instr.ecEncode 15).WellFormed ∧ Instr.nop.WellFormed := by decide

theorem witness_DecodedWordIsEncoding : decode 0x000F0031 = .ok (.ecDecode 15) := by decide

theorem witness_StepRunsInflightCommand :
    (idle.issue 0x0000002C).inflight = some 0x0000002C ∧ decode 0x0000002C = .ok .shift ∧
    (idle.issue 0x0000002C).agenda = [] ∧
    (idle.withFetchWord 32 0x2C).inflight = some 0x0000002C ∧
    (idle.withFetchWord 32 0x2C).agenda = .sequencer :: [] := by decide

theorem witness_IllegalWordEndsInError :
    (idle.withFetchWord 32 0xFF).inflight = some 0xFF ∧ (idle.withFetchWord 32 0xFF).agenda = .sequencer :: [] ∧
    (∀ row ∈ opcodeTable, (0xFF : Word).toNat % 256 ≠ row.2.toNat) ∧
    (idle.withFetchWord 32 0x200).inflight = some 0x200 ∧ (idle.withFetchWord 32 0x200).agenda = .sequencer :: [] ∧
    (∃ row ∈ opcodeTable, (0x200 : Word).toNat % 256 = row.2.toNat) ∧
    (∀ row ∈ opcodeTable, (0x200 : Word) &&& row.1 ≠ row.2) :=
  ⟨by decide, by decide, by simp [opcodeTable], by decide, by decide, by simp [opcodeTable], by simp [opcodeTable]⟩

theorem witness_IdleChangesNothing :
    idle.busy = false ∧ idle.agenda = [] ∧
    ({ idle with agenda := [.sequencer] } : State).busy = false ∧
    ({ idle with agenda := [.sequencer] } : State).agenda = .sequencer :: [] := by decide

theorem witness_HostEventIsOneStep :
    ({ idle with agenda := [wr params (.reg .cmd) 0] } : State).agenda
      = .bus { addr := 0x8001C, width := 4, op := .write 0 } :: [] ∧
    ({ idle with agenda := [.hardReset] } : State).agenda = .hardReset :: [] ∧
    0x7FFFF < 0x80000 ∧ 0x7FFFF < idle.cfg.base ∧ idle.cfg.base + 0x80000 ≤ 0x100000 := by decide

theorem witness_EveryStepAnswers :
    idle.agenda = [] ∧ (idle.withFetchWord 32 0).agenda = .sequencer :: [] := by decide

/-- A small state that meets the invariant, with a configured quantizer and scaler and a command in flight. -/
def invState : State := ({ vecState 0 8 1 [5] with quant := q2, scl := l5, profv := 1 } : State).issue 0x21

theorem witness_StepKeepsInv : invState.Inv ∧ ∃ t, step invState = .next t := by
  refine ⟨⟨by decide, ?_, .inr rfl, by unfold QuantRegs.Coherent; decide +kernel, by unfold ScaleRegs.Coherent; decide +kernel,
    by unfold State.ErrinfoOk; decide, ?_⟩, _, rfl⟩
  · intro r
    cases r <;> decide
  · intro p hp
    have hp : 1 ≤ p := hp
    show (1 : Word).getLsbD p = false
    rcases p with _ | p
    · omega
    · simp

theorem witness_SoftResetWhileIdle : (vecState 0 8 1 [5]).busy = false := by decide

theorem witness_SoftResetCancelsCommand :
    ((xfState 2 [] [] []).issue 0x10).inflight = some 0x10 ∧ decode 0x10 = .ok (.mdctFwd false) ∧
    wordsOf .dmem 8 2 .dmem 39 ∧ 39 < ramSize params .dmem ∧ histOf 2 .hist 3 ∧ 3 < ramSize params .hist ∧
    cancelledDest (xfState 2 [] [] []) (.mdctFwd false) .dmem 39 ∧
    cancelledDest (xfState 2 [] [] []) (.mdctFwd false) .hist 3 ∧
    ((xfState 2 [] [] []).issue 0x11).inflight = some 0x11 ∧ decode 0x11 = .ok (.mdctInv false) ∧
    cancelledDest (xfState 2 [] [] []) (.mdctInv false) .ola 7 ∧ 7 < ramSize params .ola ∧
    (idle.issue 0x200).inflight = some 0x200 ∧ decode 0x200 = .error .reservedField ∧
    ∃ t, exec (.mdctFwd false) ((xfState 2 [] [] []).issue 0x10) = .next t := by
  unfold cancelledDest wordsOf histOf
  refine ⟨?_, ?_, ?_, ?_, ?_, ?_, ?_, ?_, ?_, ?_, ?_, ?_, ?_, ?_, _, rfl⟩ <;> decide

theorem witness_RneIsNearestTiesToEven : (-2 : Int) ≠ 0 ∧ |2 * (-2 * rne 3 (-2) - 3)| = |(-2 : Int)| := by decide

theorem witness_HannWindowsSumToOne : 0 < 4 ∧ hannq 8 1 = 4799 ∧ hannq 8 5 = 27969 := by decide

theorem witness_RomCloseToRealFunctions : 0 < 8 ∧ cosq 8 1 = 759250125 := by decide

/-- For each opcode a word with it and a 1 outside its fields. -/
theorem witness_ReservedFieldRefused :
    ∀ row ∈ ([(0x100, 0x00, 0xFF), (0x80000001, 0x01, 0xFF), (0x210, 0x10, 0x1FF), (0x111, 0x11, 0x2FF),
        (0x10012, 0x12, 0x1FF), (0x413, 0x13, 0x2FF), (0x120, 0x20, 0xFF), (0x80000021, 0x21, 0xFF),
        (0x222, 0x22, 0xFF), (0x10023, 0x23, 0xFF), (0x100024, 0x24, 0xFF), (0x128, 0x28, 0xFF)] : List
        (Word × Nat × Word)) ++ [(0x129, 0x29, 0xFF), (0x12A, 0x2A, 0xFF), (0x12B, 0x2B, 0xFF), (0x12C, 0x2C, 0xFF),
        (0x12D, 0x2D, 0xFF), (0x400030, 0x30, 0xF00FF), (0x8031, 0x31, 0xF00FF)],
      row.1.toNat % 256 = row.2.1 ∧ row.1 &&& ~~~row.2.2 ≠ 0 := by decide

/-- XF_N, SRC0 and DST of the small instance. -/
def hopState (n src0 dst : Nat) : State :=
  { idle with ops := { vecOps src0 dst 0 with xfN := BitVec.ofNat 32 n } }

theorem witness_MdctFwdIsFoldedDct :
    params.Legal ∧
    ¬((hopState 3 0 0).hop % 2 = 0) ∧ ¬(2 ≤ (hopState 0 0 0).hop) ∧ ¬((hopState 6 0 0).hop ≤ params.nmax) ∧
    ((hopState 4 0 1021).hop % 2 = 0 ∧ 2 ≤ (hopState 4 0 1021).hop ∧ (hopState 4 0 1021).hop ≤ params.nmax ∧
      ¬Passes (hopState 4 0 1021) (hopState 4 0 1021).dst 4) ∧
    ((hopState 2 1022 1022).hop % 2 = 0 ∧ 2 ≤ (hopState 2 1022 1022).hop ∧ (hopState 2 1022 1022).hop ≤ params.nmax ∧
      Passes (hopState 2 1022 1022) (hopState 2 1022 1022).src0 2 ∧
      Passes (hopState 2 1022 1022) (hopState 2 1022 1022).dst 2) := by
  unfold Passes; decide

theorem witness_MdctInvUnfoldsAndOverlapAdds :
    ¬((hopState 5 0 0).hop % 2 = 0) ∧
    ((hopState 4 1021 0).hop % 2 = 0 ∧ 2 ≤ (hopState 4 1021 0).hop ∧ (hopState 4 1021 0).hop ≤ params.nmax ∧
      ¬Passes (hopState 4 1021 0) (hopState 4 1021 0).src0 4) ∧
    ((hopState 4 1020 0).hop % 2 = 0 ∧ 2 ≤ (hopState 4 1020 0).hop ∧ (hopState 4 1020 0).hop ≤ params.nmax ∧
      Passes (hopState 4 1020 0) (hopState 4 1020 0).src0 4 ∧ Passes (hopState 4 1020 0) (hopState 4 1020 0).dst 4) := by
  unfold Passes; decide

theorem witness_StftFwdIsWindowedDft :
    params.Legal ∧ ¬(1 ≤ (hopState 0 0 0).hop) ∧ ¬((hopState 5 0 0).hop ≤ params.nmax) ∧
    (1 ≤ (hopState 1 0 1021).hop ∧ (hopState 1 0 1021).hop ≤ params.nmax ∧
      ¬Passes (hopState 1 0 1021) (hopState 1 0 1021).dst 4) ∧
    (1 ≤ (hopState 1 1023 1020).hop ∧ (hopState 1 1023 1020).hop ≤ params.nmax ∧
      Passes (hopState 1 1023 1020) (hopState 1 1023 1020).src0 1 ∧
      Passes (hopState 1 1023 1020) (hopState 1 1023 1020).dst 4) := by
  unfold Passes; decide

theorem witness_StftInvSynthesisesAndOverlapAdds :
    ¬((hopState 5 0 0).hop ≤ params.nmax) ∧
    (1 ≤ (hopState 4 1015 0).hop ∧ (hopState 4 1015 0).hop ≤ params.nmax ∧
      ¬Passes (hopState 4 1015 0) (hopState 4 1015 0).src0 10) ∧
    (1 ≤ (hopState 4 1014 1020).hop ∧ (hopState 4 1014 1020).hop ≤ params.nmax ∧
      Passes (hopState 4 1014 1020) (hopState 4 1014 1020).src0 10 ∧
      Passes (hopState 4 1014 1020) (hopState 4 1014 1020).dst 4) := by
  unfold Passes; decide

theorem witness_QConfigDerivesFactors :
    ¬(2 ≤ (1 : Word).toNat) ∧ ¬((65537 : Word).toNat ≤ 65536) ∧
    (2 ≤ zext q1.qLevels ∧ zext q1.qLevels ≤ 65536 ∧ ¬sext ({ q1 with qMax := 0 } : QuantRegs).qMin
      < sext ({ q1 with qMax := 0 } : QuantRegs).qMax) ∧
    (2 ≤ zext q4.qLevels ∧ zext q4.qLevels ≤ 65536 ∧ sext q4.qMin < sext q4.qMax) := by decide

theorem witness_QuantWritesIndices_DequantWritesValues :
    (vecState 0 8 1 []).quant.qValid = false ∧
    (({ vecState 1023 8 2 [] with quant := q1 } : State).quant.qValid = true ∧
      ¬UnaryPasses { vecState 1023 8 2 [] with quant := q1 }) ∧
    (({ vecState 0 1022 2 [] with quant := q1 } : State).quant.qValid = true ∧
      UnaryPasses { vecState 0 1022 2 [] with quant := q1 } ∧ 1 < (vecState 0 1022 2 []).count) := by
  unfold UnaryPasses Passes; decide

/-- COMPAND, EXPAND, RECIP and UNSHIFT have the region test alone. -/
theorem witness_Compand_Expand_Recip_Unshift :
    ¬UnaryPasses (vecState 0 1023 2 []) ∧ UnaryPasses (vecState 1022 0 2 []) ∧ UnaryPasses (vecState 4095 4095 0 []) ∧
    1 < (vecState 1022 0 2 []).count := by
  unfold UnaryPasses Passes; decide

theorem witness_SConfigDerivesFactor :
    sext ScaleRegs.reset.oldMax = sext ScaleRegs.reset.oldMin ∧ sext l5.oldMax ≠ sext l5.oldMin := by decide

theorem witness_ScaleWritesRemap :
    (vecState 0 8 1 []).scl.sValid = false ∧
    (({ vecState 0 1023 2 [] with scl := l5 } : State).scl.sValid = true ∧
      ¬UnaryPasses { vecState 0 1023 2 [] with scl := l5 }) ∧
    (({ vecState 0 1022 2 [] with scl := l5 } : State).scl.sValid = true ∧
      UnaryPasses { vecState 0 1022 2 [] with scl := l5 }) := by
  unfold UnaryPasses Passes; decide

theorem witness_MupdWritesFactors :
    ¬Passes (vecState 0 1023 2 []) (vecState 0 1023 2 []).dst (vecState 0 1023 2 []).count ∧
    (Passes (mupdState [1] [-1] [0]) 0 1 ∧ Passes (mupdState [1] [-1] [0]) 8 1 ∧
      Passes (mupdState [1] [-1] [0]) 16 1 ∧ Passes (mupdState [1] [-1] [0]) 24 1 ∧
      (mupdState [1] [-1] [0]).count = 1 ∧ (mupdState [1] [-1] [0]).dmemInt 8 < 0) ∧
    (Passes (mupdState [1] [5] [0]) 0 1 ∧ Passes (mupdState [1] [5] [0]) 8 1 ∧ Passes (mupdState [1] [5] [0]) 16 1 ∧
      Passes (mupdState [1] [5] [0]) 24 1 ∧ (mupdState [1] [5] [0]).count = 1 ∧
      (mupdState [1] [5] [0]).src0 = 0 ∧ (mupdState [1] [5] [0]).src1 = 8 ∧ (mupdState [1] [5] [0]).src2 = 16 ∧
      ¬((mupdState [1] [5] [0]).dmemInt 0 < 0 ∨ (mupdState [1] [5] [0]).dmemInt 8 < 0 ∨
        (mupdState [1] [5] [0]).dmemInt 16 < 0)) := by
  unfold Passes; decide

theorem witness_MupdKeepsNonNegative :
    (mupdState [1] [5] [0]).flags.err = false ∧ 0 < (mupdState [1] [5] [0]).count ∧
    ∃ t, exec .mupd (mupdState [1] [5] [0]) = .next t ∧ t.flags.err = false :=
  ⟨by decide, by decide, _, rfl, by decide⟩

theorem witness_ShiftAddsAbsoluteMinimum :
    (vecState 0 8 0 []).count = 0 ∧
    ((vecState 0 1023 2 []).count ≠ 0 ∧ ¬UnaryPasses (vecState 0 1023 2 [])) ∧
    ((vecState 1023 1023 1 []).count ≠ 0 ∧ UnaryPasses (vecState 1023 1023 1 [])) := by
  unfold UnaryPasses Passes; decide

theorem witness_UnshiftUndoesShift :
    (∃ t, exec .shift (vecState 0 2 2 [-5, 7]) = .next t ∧ t.flags.err = false ∧ t.flags.sat = false) ∧
    (vecState 0 2 2 [-5, 7]).src0 + (vecState 0 2 2 [-5, 7]).count ≤ (vecState 0 2 2 [-5, 7]).dst ∧
    (∃ t, exec .shift (vecState 0 0 2 [-5, 7]) = .next t ∧ t.flags.err = false ∧ t.flags.sat = false) ∧
    (vecState 0 0 2 [-5, 7]).dst = (vecState 0 0 2 [-5, 7]).src0 :=
  ⟨⟨_, rfl, by decide, by decide⟩, by decide, ⟨_, rfl, by decide, by decide⟩, by decide⟩

theorem witness_QuantizerRoundTripBound :
    q2.Coherent ∧ q2.qValid = true ∧ sext q2.qMin ≤ -65536 ∧ (-65536 : Int) ≤ sext q2.qMax := by
  unfold QuantRegs.Coherent; decide

theorem witness_CompanderCurveIsOdd : (-1 : Int) ≠ 0 ∧ lutValue 8 (fun j => (j : Int) * 256) (-1) = -1 := by decide

/-- Every symbol of the grid 0, 1, 2, 3, 0, 0 has a code; symbol 4 has none. -/
theorem witness_EcEncodeWritesStream :
    ¬Registered (ecState 0 8 0 1 1 8 [0]) 1 ∧ Registered (ecState 0 8 0 1 1 8 [0]) 0 ∧
    ¬Passes (ecState 1023 8 0 1 2 8 []) (ecState 1023 8 0 1 2 8 []).src0 (ecState 1023 8 0 1 2 8 []).gridSize ∧
    (Passes (ecState 0 3 0 1 4 8 []) 0 4 ∧ Passes (ecState 0 3 0 1 4 8 []) 3 ((8 + 3) / 4) ∧
      Overlaps 0 4 3 ((8 + 3) / 4)) ∧
    (¬Overlaps 0 1 8 ((0 + 3) / 4) ∧ (ecState 0 8 0 1 1 0 [4]).gridSize = 1 ∧
      symbolAt (ecState 0 8 0 1 1 0 [4]) 0 = 4 ∧ (ecState 0 8 0 1 1 0 [4]).codeLen 0 4 = 0) ∧
    (¬Overlaps 0 6 6 ((2 + 3) / 4) ∧ (∀ i < 6, symbolAt (ecState 0 6 0 1 6 2 [0, 1, 2, 3, 0, 0]) i < params.nsym ∧
        (ecState 0 6 0 1 6 2 [0, 1, 2, 3, 0, 0]).codeLen 0 (symbolAt (ecState 0 6 0 1 6 2 [0, 1, 2, 3, 0, 0]) i) ≠ 0) ∧
      bitsBefore (ecState 0 6 0 1 6 2 [0, 1, 2, 3, 0, 0]) 0 6 = 11 ∧ ¬(2 < (11 + 7) / 8) ∧ 1 < (11 + 7) / 8) := by
  unfold Registered Passes Overlaps; decide

/-- A stream of `count` zero bytes and the one code "1": no prefix of it matches. -/
theorem noMatch_zeros (s : State) (l : Nat) (hn : s.cfg.nsym = 6) (h0 : s.codeLen 0 0 = 1) (hv : s.codeValue 0 0 = 1)
    (hb : (s.streamBit s.src0 0) = false)
    (h : ∀ t, t < 6 → t ≠ 0 → s.codeLen 0 t = 0) : NoMatch s 0 0 l := by
  rintro k t hk - ⟨ht, hl, hc⟩
  by_cases h2 : t = 0
  · subst h2
    obtain rfl : k = 1 := by omega
    simp [bitsValue, hb, hv] at hc
  · have := h t (by omega) h2
    omega

/-- The three ways decoding goes: a symbol found at the last bit of the stream, a stream too short for 24 bits
(16 bits left), and 24 bits without a code. -/
theorem witness_EcDecodeWritesSymbols :
    (DecodesTo (oneCode 1 1 0x80) 0 0 0 1 ∧ (oneCode 1 1 0x80).gridSize = 1) ∧
    (8 * (oneCode 2 1 0).count < 0 + 24 ∧ NoMatch (oneCode 2 1 0) 0 0 (8 * (oneCode 2 1 0).count - 0)) ∧
    (0 + 24 ≤ 8 * (oneCode 3 1 0).count ∧ NoMatch (oneCode 3 1 0) 0 0 24) ∧
    Registered (oneCode 3 1 0) 0 ∧ ¬Registered (oneCode 3 1 0) 1 ∧
    Passes (oneCode 3 1 0) (oneCode 3 1 0).src0 (((oneCode 3 1 0).count + 3) / 4) ∧
    Passes (oneCode 3 1 0) (oneCode 3 1 0).dst (oneCode 3 1 0).gridSize ∧
    ¬Overlaps (oneCode 3 1 0).src0 (((oneCode 3 1 0).count + 3) / 4) (oneCode 3 1 0).dst (oneCode 3 1 0).gridSize ∧
    ¬Passes (oneCode 3 1025 0) (oneCode 3 1025 0).dst (oneCode 3 1025 0).gridSize ∧
    Overlaps (ecState 0 0 4 1 1 0 []).src0 1 (ecState 0 0 4 1 1 0 []).dst 1 := by
  refine ⟨⟨⟨1, by decide, by decide, rfl, by decide, ?_, ?_, ?_⟩, by decide⟩,
    ⟨by decide, noMatch_zeros _ _ rfl (by decide) (by decide) (by decide) (by decide)⟩,
    ⟨by decide, noMatch_zeros _ _ rfl (by decide) (by decide) (by decide) (by decide)⟩, ?_⟩
  · intro k t h1 h2
    omega
  · unfold CodeIs; decide
  · intro t ht
    omega
  · unfold Registered Passes Overlaps; decide

theorem witness_EcDecodeUndoesEcEncode :
    (ecState 0 8 0 1 6 8 [0, 1, 2, 3, 0, 0]).cfg.Legal ∧ PrefixFree (ecState 0 8 0 1 6 8 [0, 1, 2, 3, 0, 0]) 0 ∧
    ∃ t, exec (.ecEncode 0) (ecState 0 8 0 1 6 8 [0, 1, 2, 3, 0, 0]) = .next t ∧ t.flags.err = false ∧
      Passes (ecState 0 8 0 1 6 8 [0, 1, 2, 3, 0, 0]) 9 (ecState 0 8 0 1 6 8 [0, 1, 2, 3, 0, 0]).gridSize ∧
      ¬Overlaps (ecState 0 8 0 1 6 8 [0, 1, 2, 3, 0, 0]).dst ((t.res.res0.toNat + 3) / 4) 9
        (ecState 0 8 0 1 6 8 [0, 1, 2, 3, 0, 0]).gridSize := by
  refine ⟨by decide, ?_, _, rfl, by decide, ?_, ?_⟩
  · intro t1 t2 h1 h2
    have b1 : t1 < 6 := of_decide_eq_true (Bool.and_eq_true_iff.mp h1).1
    have b2 : t2 < 6 := of_decide_eq_true (Bool.and_eq_true_iff.mp h2).1
    interval_cases t1 <;> interval_cases t2 <;> revert h1 h2 <;> decide
  · unfold Passes; decide
  · unfold Overlaps; decide

theorem witness_ErrorsArePrecise_CommandsNeverWriteHostState :
    ∃ t, exec .recip { vecState 0 8 1 [3] with
      flags := { done := true, err := true, sat := true, divz := true, buserr := true, hosterr := true } } = .next t :=
  ⟨_, rfl⟩

/-- A read of STATUS and a write to SRC0 do not cancel a running RECIP. -/
theorem witness_BusyAccessKeepsCapturedState_EffectIsThatOfTheStateAtIssue :
    ((vecState 0 8 1 [3]).issue 0x2A).busy = true ∧
    (((vecState 0 8 1 [3]).issue 0x2A).hostAccess { addr := 0x80020, width := 4, op := .write 9 }).busy = true ∧
    (∃ t, exec .recip ((vecState 0 8 1 [3]).issue 0x2A) = .next t) ∧
    ∃ u, exec .recip (((vecState 0 8 1 [3]).issue 0x2A).hostAccess { addr := 0x80020, width := 4, op := .write 9 })
      = .next u :=
  ⟨by decide, by decide, ⟨_, rfl⟩, _, rfl⟩

/-- The ends of every unmapped range of the small instance, a narrow and a misaligned access; the offsets beside them
are served. -/
theorem witness_UnservedAccessOnlySetsBuserr :
    params.Legal ∧ served params 0x020 2 = none ∧ served params 0x022 4 = none ∧
    (∀ a ∈ [0x00100, 0x03FFC, 0x04010, 0x07FFC, 0x08010, 0x0BFFC, 0x0C00C, 0x0DFFC, 0x0E00C, 0x0FFFC, 0x10018, 0x14000,
      0x1FFFC, 0x21000, 0x7FFFC], served params a 4 = none) ∧
    (∀ a ∈ [0x000FC, 0x04000, 0x0400C, 0x08000, 0x0800C, 0x0C000, 0x0C008, 0x0E000, 0x0E008, 0x10000, 0x10014, 0x20000,
      0x20FFC], served params a 4 ≠ none) := by decide

theorem witness_ReservedOffsetsReadZero :
    ∀ a ∈ [0x054, 0x05C, 0x09C, 0x0A4, 0x0FC], a < 0x100 ∧ a % 4 = 0 ∧ ∀ r : Reg, r.offset ≠ a := by
  intro a ha
  fin_cases ha <;> exact ⟨by decide, by decide, fun r => by cases r <;> decide⟩

theorem witness_BusyWritesAreIgnored :
    (idle.issue 0).busy = true ∧ served params 0x20FFC 4 = some (.dmem 1023) ∧
    Target.dmem 1023 ≠ .reg .ctrl ∧ Target.dmem 1023 ≠ .reg .status ∧ Target.dmem 1023 ≠ .reserved ∧
    served params 0x004 4 = some (.reg .version) ∧ Target.reg .version ≠ .reg .ctrl ∧
    Target.reg .version ≠ .reg .status ∧ Target.reg .version ≠ .reserved ∧
    served params 0x0FC 4 = some .reserved ∧ Target.reserved ≠ .reg .ctrl ∧ Target.reserved ≠ .reg .status := by decide

theorem witness_BusyRamReadsAreFreeDraws :
    (idle.issue 0).busy = true ∧ served params 0x0400C 4 = some (.hist 3) ∧ 0x100 ≤ 0x0400C := by decide

theorem witness_CmdWriteIssuesWhenIdle : idle.busy = false ∧ (idle.issue 0).busy = true := by decide

theorem witness_ConfigurationWritesInvalidate :
    ({ idle with quant := q1, scl := l5 } : State).busy = false ∧
    ({ idle with quant := q1, scl := l5 } : State).quant.qValid = true := by decide

theorem witness_RamWritesReadBack :
    idle.cfg.Legal ∧ idle.busy = false ∧ 1023 < idle.cfg.dmemWords ∧ 3 < idle.cfg.nmax ∧ 2 ≤ 2 ^ idle.cfg.lutLog2 ∧
    0 < idle.cfg.nprof ∧ 5 < idle.cfg.nsym := by decide

theorem witness_ProfvKeepsOnlyExistingProfiles : (vecState 0 8 1 []).busy = false := by decide

theorem witness_CtrlStoresEnableOrResets :
    (0xFFFFFFFD : Word).getLsbD 1 = false ∧ (0x00000003 : Word).getLsbD 1 = true := by decide

theorem witness_RegisterReadsReturnTheirValue : params.Legal ∧ Params.default.Legal := by decide

theorem witness_IdleRegisterWritesStoreOrAreIgnored : (vecState 0 8 1 []).busy = false := by decide

theorem witness_IrqIsALevel : ({ idle with ie := true } : State).ie = true := by decide

end Sys2Proof.Tests
end

section
/-! PROOF. RNE (R10) as a characterisation: the value of `rne` is the one integer that is nearest to p/q and even at a
tie. The odd symmetry follows, since −RNE(p, q) meets the characterisation of RNE(−p, q). -/

namespace Sys2Proof.Machine

/-- x is an integer nearest to p/q, and an even one when p/q lies half-way between two integers (R10), without
division. -/
def IsNearestEven (p q x : Int) : Prop :=
  |2 * (q * x - p)| ≤ |q| ∧ (|2 * (q * x - p)| = |q| → x % 2 = 0)

/-- p/q and (−p)/(−q) are the same rational. -/
theorem isNearestEven_neg_neg {p q x : Int} : IsNearestEven (-p) (-q) x ↔ IsNearestEven p q x := by
  have h : 2 * (-q * x - -p) = -(2 * (q * x - p)) := by ring
  rw [IsNearestEven, IsNearestEven, h, abs_neg, abs_neg]

theorem IsNearestEven.neg {p q x : Int} (h : IsNearestEven p q x) : IsNearestEven (-p) q (-x) := by
  obtain ⟨hdist, htie⟩ := h
  have e : 2 * (q * -x - -p) = -(2 * (q * x - p)) := by ring
  rw [IsNearestEven, e, abs_neg, Int.neg_emod_two]
  exact ⟨hdist, htie⟩

/-- Two different integers within 1/2 of p/q are neighbours and both ties, so they are not both even. -/
theorem IsNearestEven.unique {p q x y : Int} (hq : q ≠ 0) (hx : IsNearestEven p q x) (hy : IsNearestEven p q y) :
    x = y := by
  by_contra hne
  obtain ⟨hxdist, hxtie⟩ := hx
  obtain ⟨hydist, hytie⟩ := hy
  have hqpos : 0 < |q| := abs_pos.mpr hq
  have hdiff : 1 ≤ |x - y| := Int.one_le_abs (sub_ne_zero.mpr hne)
  have htri : 2 * (|q| * |x - y|) ≤ |2 * (q * x - p)| + |2 * (q * y - p)| := by
    calc 2 * (|q| * |x - y|) = |2 * (q * x - p) - 2 * (q * y - p)| := by
          rw [← abs_mul, ← abs_two, ← abs_mul]; congr 1; simp; ring
      _ ≤ _ := abs_sub _ _
  have hle : |q| ≤ |q| * |x - y| := le_mul_of_one_le_right hqpos.le hdiff
  have hone : |x - y| = 1 := mul_left_cancel₀ hqpos.ne' (by omega)
  have hnext := (abs_eq zero_le_one).mp hone
  have hxeven := hxtie (by omega)
  have hyeven := hytie (by omega)
  omega

/-- For the floor f and the remainder r of p/q, p is r above q · f and q − r below q · (f + 1). The branches of `rnePos`
compare 2r with q. -/
theorem rnePos_isNearestEven (p : Int) {q : Int} (hq : 0 < q) : IsNearestEven p q (rnePos p q) := by
  have hdiv := Int.mul_ediv_add_emod p q
  have hr0 := Int.emod_nonneg p hq.ne'
  have hrq := Int.emod_lt_of_pos p hq
  have hfloor : |2 * (q * (p / q) - p)| = 2 * (p % q) := by
    rw [abs_of_nonpos (by omega)]; omega
  have hceil : |2 * (q * (p / q + 1) - p)| = 2 * (q - p % q) := by
    rw [mul_add, abs_of_nonneg (by omega)]; omega
  simp only [rnePos, IsNearestEven, abs_of_pos hq]
  split
  case isTrue hbelow => rw [hfloor]; omega
  case isFalse =>
    split
    case isTrue habove => rw [hceil]; omega
    case isFalse =>
      split
      case isTrue heven => rw [hfloor]; omega
      case isFalse hodd => rw [hceil]; omega

theorem rne_isNearestEven (p : Int) {q : Int} (hq : q ≠ 0) : IsNearestEven p q (rne p q) := by
  unfold rne
  split
  case isTrue hneg => exact isNearestEven_neg_neg.mp (rnePos_isNearestEven (-p) (Int.neg_pos_of_neg hneg))
  case isFalse hnonneg => exact rnePos_isNearestEven p (by omega)

theorem rne_eq_iff {p q x : Int} (hq : q ≠ 0) : rne p q = x ↔ IsNearestEven p q x :=
  ⟨fun h => h ▸ rne_isNearestEven p hq, (rne_isNearestEven p hq).unique hq⟩

theorem rne_neg (p : Int) {q : Int} (hq : q ≠ 0) : rne (-p) q = -rne p q :=
  (rne_eq_iff hq).mpr (rne_isNearestEven p hq).neg

/-- Settles O16: `rne` meets R10's characterisation, which is unique and therefore odd-symmetric. -/
theorem rneIsNearestTiesToEven : Obligations.RneIsNearestTiesToEven := by
  intro p q hq
  obtain ⟨hdist, htie⟩ := rne_isNearestEven p hq
  exact ⟨hdist, htie, rne_neg p hq⟩

end Sys2Proof.Machine
end

section
/-! PROOF. The register file on the host's bus (10_state.md R20, R24, R25, R38) and the level of IRQ (R46). An access to
the register file is taken through the target it reaches, so that no proof looks into the address map again. -/

namespace Sys2Proof.Machine

/-- The offsets of R20's map are distinct, so each one leads back to its register. -/
theorem Reg.ofOffset_offset (r : Reg) : Reg.ofOffset r.offset = some r := by cases r <;> rfl

theorem Reg.ofOffset_eq_none {a : Nat} (hfree : ∀ r : Reg, r.offset ≠ a) : Reg.ofOffset a = none :=
  List.find?_eq_none.mpr fun r _ hr => hfree r (beq_iff_eq.mp hr)

theorem Reg.offset_lt (r : Reg) : r.offset < 0x100 := by cases r <;> decide

theorem Reg.offset_aligned (r : Reg) : r.offset % 4 = 0 := by cases r <;> rfl

@[simp] theorem served_reg (p : Config.Params) (r : Reg) : served p r.offset 4 = some (.reg r) := by
  simp [served, target, r.offset_lt, r.offset_aligned, r.ofOffset_offset]

theorem served_reserved (p : Config.Params) {a : Nat} (hlow : a < 0x100) (halign : a % 4 = 0)
    (hfree : ∀ r : Reg, r.offset ≠ a) : served p a 4 = some .reserved := by
  simp [served, target, hlow, halign, Reg.ofOffset_eq_none hfree]

theorem State.hostRead_of_reserved {s : State} {a : Nat} (h : served s.cfg a 4 = some .reserved) :
    s.hostRead a 4 = { s with rdata := 0 } := by
  simp [State.hostRead, h, Target.isRam, State.readTarget]

theorem State.hostWrite_of_reserved {s : State} {a : Nat} (v : Word) (h : served s.cfg a 4 = some .reserved) :
    s.hostWrite a 4 v = if s.busy then s.noteHostErr Config.reservedBusyWriteFlags else s := by
  simp only [State.hostWrite, h, busyWriteFlags, State.writeTarget]

theorem State.hostWrite_ctrl (s : State) (v : Word) : s.hostWrite Reg.ctrl.offset 4 v = s.writeCtrl v := by
  simp only [State.hostWrite, served_reg]

theorem State.hostWrite_status (s : State) (v : Word) : s.hostWrite Reg.status.offset 4 v = s.writeStatus v := by
  simp only [State.hostWrite, served_reg]

/-- `set STATUS.HOSTERR` with the flag's old value is no change. -/
@[simp] theorem State.noteHostErr_false (s : State) : s.noteHostErr false = s := by
  simp [State.noteHostErr]

/-- Settles O50: such an offset reaches the target `reserved`, whose read is 0 and whose write is no change while idle
and at most a set HOSTERR while a command runs. -/
theorem reservedOffsetsReadZero : Obligations.ReservedOffsetsReadZero := by
  intro s a v hlow halign hfree
  have hserved := served_reserved s.cfg hlow halign hfree
  have hwrite := State.hostWrite_of_reserved v hserved
  refine ⟨State.hostRead_of_reserved hserved, fun hidle => by simp [hwrite, hidle], ?_⟩
  cases hbusy : s.busy
  case false => exact ⟨false, by simp [hwrite, hbusy]⟩
  case true => exact ⟨Config.reservedBusyWriteFlags, by simp [hwrite, hbusy, State.noteHostErr]⟩

theorem State.irq_iff (s : State) : s.irq = true ↔ s.ie = true ∧ (s.flags.done = true ∨ s.flags.err = true) := by
  rw [State.irq, Bool.and_eq_true, Bool.or_eq_true]

/-- A completion leaves DONE = 1, so IRQ is IE alone. -/
@[simp] theorem State.complete_irq (s : State) : s.complete.irq = s.ie := by simp [State.irq]

theorem State.writeStatus_irq_of_clear (s : State) {v : Word} (hdone : v.getLsbD 1 = true) (herr : v.getLsbD 2 = true) :
    (s.writeStatus v).irq = false := by
  simp [State.irq, Flags.clearedBy, hdone, herr]

theorem State.writeCtrl_of_no_srst (s : State) {v : Word} (hsrst : v.getLsbD 1 = false) :
    s.writeCtrl v = { s with ie := v.getLsbD 0 } := by
  rw [State.writeCtrl, hsrst]
  rfl

/-- Settles O59: `irq` is R46's level, and each of the three events changes one of the bits it is computed from. -/
theorem irqIsALevel : Obligations.IrqIsALevel := by
  intro s
  refine ⟨s.irq_iff, fun hie => s.complete_irq.trans hie, ?_, ?_⟩
  case refine_1 =>
    have hclear : s.hostWrite 0x014 4 0x6 = s.writeStatus 0x6 := s.hostWrite_status 0x6
    rw [hclear]
    exact s.writeStatus_irq_of_clear (by decide) (by decide)
  case refine_2 =>
    have hset : s.hostWrite 0x010 4 1 = { s with ie := true } :=
      (s.hostWrite_ctrl 1).trans (s.writeCtrl_of_no_srst (by decide))
    rw [hset, State.irq_iff]
    exact and_iff_right rfl

end Sys2Proof.Machine
end

section
/-! PROOF. Decoding against the opcode table (30_encoding.md R91). The opcode map and the table are tied once, row by row
(`opcodeEntry_row`, `opcodeEntry_eq_none_iff`): the map's used bits A give the row's mask NOT(A without OPC), so a 1
outside A is the same as (w AND mask) ≠ match. The rest speaks of the map's entry alone. -/

namespace Sys2Proof

theorem toNat_and_opcode (w : Word) : (w &&& 0xFF).toNat = w.toNat % 256 :=
  Nat.and_two_pow_sub_one_eq_mod w.toNat 8

theorem opcField_eq_mod (w : Word) : opcField w = w.toNat % 256 := by
  simp [opcField]

theorem opcode_eq_iff (w v : Word) : w.toNat % 256 = v.toNat ↔ w &&& 0xFF = v := by
  rw [← toNat_and_opcode, BitVec.toNat_inj]

theorem ofNat_opcField (w : Word) : BitVec.ofNat 32 (opcField w) = w &&& 0xFF := by
  rw [opcField_eq_mod, ← toNat_and_opcode, BitVec.ofNat_toNat, BitVec.setWidth_eq]

/-- Every mask holds OPC, and every match lies in OPC (R91). -/
theorem opcodeTable_opc : ∀ row ∈ opcodeTable, row.1 &&& 0xFF = 0xFF ∧ row.2 &&& 0xFF = row.2 := by
  simp [opcodeTable]

theorem opcodeTable_matches_nodup : (opcodeTable.map Prod.snd).Nodup := by decide

/-- No two rows share an opcode (R92). -/
theorem opcodeTable_row_unique {row row' : Word × Word} (hrow : row ∈ opcodeTable) (hrow' : row' ∈ opcodeTable)
    (hmatch : row.2 = row'.2) : row = row' :=
  List.inj_on_of_nodup_map opcodeTable_matches_nodup hrow hrow' hmatch

/-- A word that matches a row has the row's opcode. -/
theorem opcode_of_row_match {w : Word} {row : Word × Word} (hrow : row ∈ opcodeTable) (hmatch : w &&& row.1 = row.2) :
    w &&& 0xFF = row.2 := by
  obtain ⟨hmask, hlow⟩ := opcodeTable_opc row hrow
  calc w &&& 0xFF = w &&& row.1 &&& 0xFF := by rw [BitVec.and_assoc, hmask]
    _ = row.2 := by rw [hmatch, hlow]

/-- The entry of the opcode map is the command's row of the table. -/
theorem opcodeEntry_row {w used : Word} {i : Instr} (h : opcodeEntry w = some (used, i)) :
    opcodeTable[i.tableRow]? = some (~~~used ||| 0xFF, w &&& 0xFF) ∧ used &&& 0xFF = 0xFF := by
  rw [← ofNat_opcField]
  unfold opcodeEntry at h
  split at h
  all_goals
    rename_i hopc
    cases h
  all_goals
    rw [hopc]
    exact ⟨rfl, rfl⟩

/-- The opcode map and the table have the same opcodes. -/
theorem opcodeEntry_eq_none_iff {w : Word} :
    opcodeEntry w = none ↔ ∀ row ∈ opcodeTable, w.toNat % 256 ≠ row.2.toNat := by
  constructor
  case mp =>
    intro hnone row hrow hopc
    rw [← opcField_eq_mod] at hopc
    revert hnone
    fin_cases hrow
    all_goals
      rw [opcodeEntry, hopc]
      exact Option.some_ne_none _
  case mpr =>
    intro hfree
    by_contra hsome
    obtain ⟨⟨used, i⟩, hentry⟩ := Option.ne_none_iff_exists'.mp hsome
    have hrow := List.mem_of_getElem? (opcodeEntry_row hentry).1
    exact hfree _ hrow (toNat_and_opcode w).symm

/-- OPC itself always agrees with the match, so what the mask tests is the bits outside `used`. -/
theorem row_match_iff_unused_zero (w : Word) {used : Word} (hopc : used &&& 0xFF = 0xFF) :
    w &&& (~~~used ||| 0xFF) = w &&& 0xFF ↔ w &&& ~~~used = 0 := by
  have hdisjoint : 0xFF &&& ~~~used = 0 := by
    rw [← hopc, BitVec.and_comm used, BitVec.and_assoc, BitVec.and_not_self]
    exact BitVec.and_zero
  constructor
  case mp =>
    intro hmatch
    calc w &&& ~~~used = w &&& (~~~used ||| 0xFF) &&& ~~~used := by
          rw [BitVec.and_assoc, BitVec.and_or_distrib_right, BitVec.and_self, hdisjoint]; simp
      _ = w &&& (0xFF &&& ~~~used) := by rw [hmatch, BitVec.and_assoc]
      _ = 0 := by rw [hdisjoint]; exact BitVec.and_zero
  case mpr =>
    intro hzero
    rw [BitVec.and_or_distrib_left, hzero]
    exact BitVec.zero_or

/-- With an opcode of the map, a row matches exactly when no bit outside the used ones is 1. -/
theorem exists_row_match_iff_of_entry {w used : Word} {i : Instr} (h : opcodeEntry w = some (used, i)) :
    (∃ row ∈ opcodeTable, w &&& row.1 = row.2) ↔ w &&& ~~~used = 0 := by
  obtain ⟨hrow, hopc⟩ := opcodeEntry_row h
  have hmem := List.mem_of_getElem? hrow
  rw [← row_match_iff_unused_zero w hopc]
  constructor
  case mp =>
    rintro ⟨row, hrow', hmatch⟩
    have hsame := opcodeTable_row_unique hrow' hmem (opcode_of_row_match hrow' hmatch).symm
    rwa [hsame] at hmatch
  case mpr => exact fun hmatch => ⟨_, hmem, hmatch⟩

theorem not_row_match_of_entry_none {w : Word} (h : opcodeEntry w = none) :
    ¬∃ row ∈ opcodeTable, w &&& row.1 = row.2 := by
  rintro ⟨row, hrow, hmatch⟩
  exact opcodeEntry_eq_none_iff.mp h row hrow ((opcode_eq_iff w row.2).mpr (opcode_of_row_match hrow hmatch))

theorem decode_of_entry {w used : Word} {i : Instr} (h : opcodeEntry w = some (used, i)) :
    decode w = if w &&& ~~~used = 0 then .ok i else .error .reservedField := by
  rw [decode, h]

theorem decode_of_entry_none {w : Word} (h : opcodeEntry w = none) : decode w = .error .badOpcode := by
  rw [decode, h]

theorem opcodeEntry_of_decode_ok {w : Word} {i : Instr} (h : decode w = .ok i) :
    ∃ used, opcodeEntry w = some (used, i) ∧ w &&& ~~~used = 0 := by
  cases hentry : opcodeEntry w with
  | none => simp [decode_of_entry_none hentry] at h
  | some entry =>
    obtain ⟨used, j⟩ := entry
    rw [decode_of_entry hentry] at h
    split at h
    case isTrue hzero => cases h; exact ⟨used, rfl, hzero⟩
    case isFalse => cases h

theorem decode_eq_badOpcode_iff {w : Word} :
    decode w = .error .badOpcode ↔ ∀ row ∈ opcodeTable, w.toNat % 256 ≠ row.2.toNat := by
  rw [← opcodeEntry_eq_none_iff]
  cases hentry : opcodeEntry w with
  | none => simp [decode_of_entry_none hentry]
  | some entry => rw [decode_of_entry hentry]; split <;> simp

theorem decode_ok_iff_exists_row {w : Word} :
    (∃ i, decode w = .ok i) ↔ ∃ row ∈ opcodeTable, w &&& row.1 = row.2 := by
  cases hentry : opcodeEntry w with
  | none => simpa [decode_of_entry_none hentry] using not_row_match_of_entry_none hentry
  | some entry =>
    rw [exists_row_match_iff_of_entry hentry, decode_of_entry hentry]
    split
    case isTrue hzero => exact iff_of_true ⟨_, rfl⟩ hzero
    case isFalse hset => exact iff_of_false (by simp) hset

/-- What is neither a command nor BAD_OPCODE is RESERVED_FIELD. -/
theorem decode_eq_reservedField_iff {w : Word} :
    decode w = .error .reservedField ↔
      (∃ row ∈ opcodeTable, w.toNat % 256 = row.2.toNat) ∧ ∀ row ∈ opcodeTable, w &&& row.1 ≠ row.2 := by
  have hok := decode_ok_iff_exists_row (w := w)
  have hbad := decode_eq_badOpcode_iff (w := w)
  have htotal : decode w = .error .reservedField ↔ decode w ≠ .error .badOpcode ∧ ¬∃ i, decode w = .ok i := by
    rcases decode w with (_ | _) | i <;> simp
  rw [htotal, hok, Ne, hbad]
  push Not
  rfl

theorem decode_ok_row {w : Word} {i : Instr} (h : decode w = .ok i) :
    ∃ row, opcodeTable[i.tableRow]? = some row ∧ w &&& row.1 = row.2 := by
  obtain ⟨used, hentry, hzero⟩ := opcodeEntry_of_decode_ok h
  obtain ⟨hrow, hopc⟩ := opcodeEntry_row hentry
  exact ⟨_, hrow, (row_match_iff_unused_zero w hopc).mpr hzero⟩

/-- Settles O3: the three outcomes of `decode`, each read off the entry of the opcode map and so off its row. -/
theorem decodeFollowsOpcodeTable : Obligations.DecodeFollowsOpcodeTable := fun _ =>
  ⟨decode_ok_iff_exists_row, fun _ => decode_ok_row, decode_eq_badOpcode_iff, decode_eq_reservedField_iff⟩

end Sys2Proof
end

section
/-! PROOF. The step that ends an illegal command word (30_encoding.md R95): the decoder's error is the one raised, and
raising it leaves `errorState` (R263). -/

namespace Sys2Proof.Machine

theorem ErrCode.code_lt (c : ErrCode) : c.code < 256 := by cases c <;> decide

/-- ERRINFO's fields as one number: CODE in bits 7:0, CMD's opcode in bits 15:8 (R263). -/
theorem errinfoWord_eq_ofNat {code : Nat} (hcode : code < 256) (cmd : Word) :
    errinfoWord code cmd = BitVec.ofNat 32 (code + 256 * (cmd.toNat % 256)) := by
  apply BitVec.eq_of_toNat_eq
  have hfields : (errinfoWord code cmd).toNat = (cmd.toNat % 256) <<< 8 ||| code := by
    simp only [errinfoWord, BitVec.toNat_append, BitVec.extractLsb'_toNat, BitVec.toNat_ofNat]
    simp [Nat.mod_eq_of_lt hcode]
  rw [hfields, ← Nat.shiftLeft_add_eq_or_of_lt (i := 8) hcode, Nat.shiftLeft_eq, BitVec.toNat_ofNat]
  omega

/-- Every error of R261 leaves the statements' `errorState` of its code. -/
theorem fail_eq_errorState (c : ErrCode) (s : State) : fail c s = .next (errorState c.code s) := by
  simp only [fail, State.raiseError, errorState, errinfoWord_eq_ofNat c.code_lt]

theorem runWord_of_decode_error {w : Word} {e : DecodeError} (h : decode w = .error e) (s : State) :
    runWord w s = .next (errorState (decodeErrorCode e).code s) := by
  rw [runWord, h]
  exact fail_eq_errorState _ s

theorem step_sequencer_of_inflight {s : State} {w : Word} {rest : List Event} (hw : s.inflight = some w)
    (hagenda : s.agenda = .sequencer :: rest) : step s = runWord w { s with agenda := rest } := by
  simp only [step, hagenda, sequencerTurn, hw]

/-- Settles O6: the word decodes to one of R91's two errors, which is the one the sequencer raises. -/
theorem illegalWordEndsInError : Obligations.IllegalWordEndsInError := by
  intro s w rest hw hagenda
  rw [step_sequencer_of_inflight hw hagenda]
  constructor
  case left => exact fun hfree => runWord_of_decode_error (decode_eq_badOpcode_iff.mpr hfree) _
  case right =>
    exact fun hopc hnorow => runWord_of_decode_error (decode_eq_reservedField_iff.mpr ⟨hopc, hnorow⟩) _

end Sys2Proof.Machine
end

section
/-! PROOF. Issue and completion (40_control.md R120, R127): what a write to CMD does, and NOP. A word with a 1 outside
its opcode's fields is refused for every command by one argument, from the entry of the opcode map. -/

namespace Sys2Proof.Machine

/-- An opcode of the map with the used bits `used` refuses a word with a 1 outside them. -/
theorem reservedFieldRefused_of_entry {opc : Nat} {used : Word}
    (hentry : ∀ w, opcField w = opc → ∃ i, opcodeEntry w = some (used, i)) : ReservedFieldRefused opc used := by
  intro w s hopc hunused
  obtain ⟨i, hi⟩ := hentry w ((opcField_eq_mod w).trans hopc)
  have hdecode : decode w = .error .reservedField := by rw [decode_of_entry hi, if_neg hunused]
  exact runWord_of_decode_error hdecode s

theorem opcodeEntry_nop {w : Word} (hopc : opcField w = 0x00) : opcodeEntry w = some (0x000000FF, .nop) := by
  rw [opcodeEntry, hopc]
  rfl

theorem exec_nop (s : State) : exec .nop s = .next s.complete := rfl

/-- Settles O19: NOP's effect is the completion alone, and its opcode uses the bits 7:0. -/
theorem nopOnlyCompletes : Obligations.NopOnlyCompletes :=
  ⟨reservedFieldRefused_of_entry fun _ hopc => ⟨.nop, opcodeEntry_nop hopc⟩, exec_nop⟩

theorem State.noteHostErr_true (s : State) :
    s.noteHostErr true = { s with flags := { s.flags with hosterr := true } } := by
  rw [State.noteHostErr, Bool.or_true]

/-- CTRL and STATUS are the only registers written while a command runs (R66). -/
theorem State.hostWrite_reg (s : State) (v : Word) {r : Reg} (hctrl : r ≠ .ctrl) (hstatus : r ≠ .status) :
    s.hostWrite r.offset 4 v = if s.busy then s.noteHostErr true else s.writeReg v r := by
  rw [State.hostWrite, served_reg]
  cases r
  case ctrl => exact absurd rfl hctrl
  case status => exact absurd rfl hstatus
  all_goals rfl

theorem State.hostWrite_cmd (s : State) (w : Word) :
    s.hostWrite 0x01C 4 w = if s.busy then s.noteHostErr true else s.issue w :=
  s.hostWrite_reg w (r := .cmd) (by decide) (by decide)

theorem State.issue_busy (s : State) (w : Word) : (s.issue w).busy = true := rfl

/-- Settles O54: a write to CMD is the issue of its word while idle and sets HOSTERR alone while a command runs. -/
theorem cmdWriteIssuesWhenIdle : Obligations.CmdWriteIssuesWhenIdle := by
  intro s w
  rw [s.hostWrite_cmd w]
  constructor
  case left =>
    intro hidle
    rw [hidle]
    exact ⟨rfl, s.issue_busy w⟩
  case right =>
    intro hbusy
    rw [if_pos hbusy, State.noteHostErr_true]

end Sys2Proof.Machine
end

section
/-! PROOF. The vectors of the transform family (41_transform.md R141 to R153) as functions of an index: each of the
model's lists is `vec` of the formula that the statements write. -/

namespace Sys2Proof.Machine

theorem vec_congr {α : Type} {n : Nat} {f g : Nat → α} (h : ∀ i < n, f i = g i) : vec n f = vec n g :=
  List.map_congr_left fun i hi => h i (List.mem_range.mp hi)

theorem vec_map {α β : Type} (n : Nat) (f : Nat → α) (g : α → β) : (vec n f).map g = vec n (fun i => g (f i)) := by
  simp [vec]

theorem vec_getElem {α : Type} {n i : Nat} (f : Nat → α) (h : i < (vec n f).length) : (vec n f)[i] = f i := by
  simp [vec]

theorem vec_append {α : Type} (a b : Nat) (f g : Nat → α) :
    vec a f ++ vec b g = vec (a + b) (fun i => if i < a then f i else g (i - a)) := by
  simp only [vec, List.range_add, List.map_append, List.map_map]
  congr 1
  · exact List.map_congr_left fun i hi => (if_pos (List.mem_range.mp hi)).symm
  · exact List.map_congr_left fun i _ => by simp

theorem vec_drop {α : Type} (a b : Nat) (f : Nat → α) : (vec (a + b) f).drop a = vec b (fun i => f (a + i)) := by
  simp [vec, List.range_add]

theorem vec_any {α : Type} (n : Nat) (f : Nat → α) (p : α → Bool) :
    (vec n f).any p = true ↔ ∃ i < n, p (f i) = true := by
  simp [vec]

/-- Pairs written one after the other are the even and the odd elements of one vector. -/
theorem flatMap_pair_eq_vec {α : Type} (n : Nat) (f g : Nat → α) :
    (List.range n).flatMap (fun k => [f k, g k]) =
      vec (2 * n) (fun i => if i % 2 = 0 then f (i / 2) else g (i / 2)) := by
  induction n with
  | zero => rfl
  | succ n ih =>
    rw [List.range_succ, List.flatMap_append, ih, Nat.mul_succ, vec, vec, List.range_add, List.map_append]
    simp [List.range_succ, show (2 * n + 1) / 2 = n by omega]

theorem inputHop_eq_vec (s : State) (zin : Bool) (n : Nat) : s.inputHop zin n = vec n (hopSample s zin) := rfl

theorem inputBlock_eq_vec (s : State) (zin : Bool) (n : Nat) :
    s.inputBlock zin n = vec (n + n) (blockSample s zin n) := by
  rw [State.inputBlock, inputHop_eq_vec, vec_append]
  rfl

theorem dctSum_vec (n : Nat) (u : Nat → Int) (k : Nat) : dctSum n (vec n u) k = kernelFormula n u k :=
  sumFrom_vec _ _ _

/-- The two halves of the fold (R142) meet at n/2, so n is even here. -/
theorem fold_vec {n : Nat} (heven : n % 2 = 0) (x : Nat → Int) :
    fold n (vec (n + n) x) = vec n (foldFormula n x) := by
  have hhalf : n / 2 + n / 2 = n := by omega
  rw [fold, vec_append, hhalf]
  refine vec_congr fun j hj => ?_
  rw [foldFormula]
  split
  case isTrue hlow => rw [elemAt_vec _ _ _ (by omega), elemAt_vec _ _ _ (by omega)]
  case isFalse hhigh => rw [elemAt_vec _ _ _ (by omega), elemAt_vec _ _ _ (by omega)]

/-- The four quarters of the unfold (R143). -/
theorem unfoldBlock_vec {n : Nat} (heven : n % 2 = 0) (w : Nat → Int) :
    unfoldBlock n (vec n w) = vec (n + n) (unfoldFormula n w) := by
  have hhalf : n / 2 + n / 2 = n := by omega
  have hblock : n + n / 2 + n / 2 = n + n := by omega
  rw [unfoldBlock, vec_append, hhalf, vec_append, vec_append, hblock]
  refine vec_congr fun i hi => ?_
  simp only [unfoldFormula]
  by_cases hfirst : i < n / 2
  · rw [if_pos (by omega), if_pos (by omega), if_pos hfirst, if_pos hfirst, elemAt_vec _ _ _ (by omega)]
  by_cases hsecond : i < n
  · rw [if_pos (by omega), if_pos hsecond, if_neg hfirst, if_neg hfirst, if_pos hsecond, elemAt_vec _ _ _ (by omega)]
  by_cases hthird : i < n + n / 2
  · rw [if_pos hthird, if_neg hsecond, if_neg hfirst, if_neg hsecond, if_pos hthird, elemAt_vec _ _ _ (by omega)]
  · rw [if_neg hthird, if_neg hfirst, if_neg hsecond, if_neg hthird, elemAt_vec _ _ _ (by omega)]

theorem mdctCoeffs_vec {n : Nat} (heven : n % 2 = 0) (x : Nat → Int) :
    mdctCoeffs n (vec (n + n) x) = vec n (fun k => rne (kernelFormula n (foldFormula n x) k) (2 ^ 30)) := by
  simp only [mdctCoeffs, fold_vec heven, dctSum_vec]

theorem mdctBlock_inputCoeffs (s : State) {n : Nat} (heven : n % 2 = 0) :
    mdctBlock n (s.inputCoeffs n) = vec (n + n) (mdctInvFormula s n) := by
  simp only [mdctBlock, State.inputCoeffs, dctSum_vec, unfoldBlock_vec heven]
  rfl

/-- The row of STFT_FWD (R151) as one vector: re[k] at 2k and im[k] at 2k + 1. -/
def rowFormula (n : Nat) (g : Nat → Int) (i : Nat) : Int :=
  if i % 2 = 0 then rne (∑ m ∈ Finset.range (2 * n), g m * cosq (2 * n) (i / 2 * m)) (2 ^ 45)
  else rne (-∑ m ∈ Finset.range (2 * n), g m * sinq (2 * n) (i / 2 * m)) (2 ^ 45)

theorem rowFormula_even (n : Nat) (g : Nat → Int) (k : Nat) :
    rowFormula n g (2 * k) = rne (∑ m ∈ Finset.range (2 * n), g m * cosq (2 * n) (k * m)) (2 ^ 45) := by
  simp [rowFormula]

theorem rowFormula_odd (n : Nat) (g : Nat → Int) (k : Nat) :
    rowFormula n g (2 * k + 1) = rne (-∑ m ∈ Finset.range (2 * n), g m * sinq (2 * n) (k * m)) (2 ^ 45) := by
  simp [rowFormula, show (2 * k + 1) / 2 = k by omega]

theorem stftWindowed_inputBlock (s : State) (zin : Bool) (n : Nat) :
    stftWindowed n (s.inputBlock zin n) = vec (2 * n) (windowFormula s zin n) := by
  rw [stftWindowed, inputBlock_eq_vec]
  exact vec_congr fun m hm => by rw [elemAt_vec _ _ _ (by omega)]; rfl

theorem stftRow_inputBlock (s : State) (zin : Bool) (n : Nat) :
    stftRow n (s.inputBlock zin n) = vec (2 * n + 2) (rowFormula n (windowFormula s zin n)) := by
  simp only [stftRow, flatMap_pair_eq_vec, stftWindowed_inputBlock, stftRe, stftIm, sumFrom_vec]
  rfl

theorem stftBlock_inputBins (s : State) (n : Nat) :
    stftBlock n (s.inputBins n) = vec (n + n) (stftInvFormula s n) := by
  simp only [stftBlock, State.inputBins, stftSum, sumFrom_vec, ← two_mul]
  rfl

end Sys2Proof.Machine
end

section
/-! PROOF. The forward transforms' values fit 32 bits (R146, R152): a sum of n products of bounded samples and ROM
values, and `rne` keeps a bound. -/

namespace Sys2Proof.Machine

theorem abs_sext_half_le (v : Half) : |sext v| ≤ 2 ^ 15 := by
  have hlo := BitVec.le_toInt (x := v)
  have hhi := BitVec.toInt_lt (x := v)
  rw [abs_le, sext]
  norm_num at hlo hhi ⊢
  omega

theorem abs_hopSample_le (s : State) (zin : Bool) (i : Nat) : |hopSample s zin i| ≤ 2 ^ 15 := by
  cases zin
  case false => exact abs_sext_half_le _
  case true => simp [hopSample]

theorem abs_blockSample_le (s : State) (zin : Bool) (n i : Nat) : |blockSample s zin n i| ≤ 2 ^ 15 := by
  rw [blockSample]
  split
  case isTrue => exact abs_sext_half_le _
  case isFalse => exact abs_hopSample_le s zin _

theorem abs_cosq_le (M m : Nat) : |cosq M m| ≤ 2 ^ 30 := abs_le.mpr (cosq_range M m)

theorem abs_sinq_le (M m : Nat) : |sinq M m| ≤ 2 ^ 30 := abs_le.mpr (sinq_range M m)

theorem abs_windowFormula_le (s : State) (zin : Bool) (n m : Nat) : |windowFormula s zin n m| ≤ 2 ^ 15 * 2 ^ 15 := by
  obtain ⟨hnonneg, hle⟩ := hannq_range (2 * n) m
  rw [windowFormula, abs_mul, abs_of_nonneg hnonneg]
  exact mul_le_mul (abs_blockSample_le s zin n m) hle hnonneg (by norm_num)

theorem abs_foldFormula_le {x : Nat → Int} {b : Int} (hx : ∀ i, |x i| ≤ b) (n j : Nat) :
    |foldFormula n x j| ≤ 2 * b := by
  rw [foldFormula]
  split
  case isTrue =>
    calc _ ≤ |-x (n + n / 2 - 1 - j)| + |x (n + n / 2 + j)| := abs_sub _ _
      _ ≤ 2 * b := by rw [abs_neg, two_mul]; exact add_le_add (hx _) (hx _)
  case isFalse =>
    calc _ ≤ |x (j - n / 2)| + |x (n - 1 - (j - n / 2))| := abs_sub _ _
      _ ≤ 2 * b := by rw [two_mul]; exact add_le_add (hx _) (hx _)

/-- A sum of n products, each factor bounded. -/
theorem abs_sum_mul_le (n : Nat) {u c : Nat → Int} {a b : Int} (hu : ∀ i, |u i| ≤ a) (hc : ∀ i, |c i| ≤ b) :
    |∑ m ∈ Finset.range n, u m * c m| ≤ n * (a * b) := by
  have hterm : ∀ m ∈ Finset.range n, |u m * c m| ≤ a * b := fun m _ => by
    rw [abs_mul]
    exact mul_le_mul (hu m) (hc m) (abs_nonneg _) ((abs_nonneg _).trans (hu m))
  calc _ ≤ ∑ m ∈ Finset.range n, |u m * c m| := Finset.abs_sum_le_sum_abs _ _
    _ ≤ (Finset.range n).card • (a * b) := Finset.sum_le_card_nsmul _ _ _ hterm
    _ = n * (a * b) := by rw [Finset.card_range, nsmul_eq_mul]

/-- p/q is at most b, an integer, and so is the integer nearest to it. -/
theorem abs_rne_le {p q b : Int} (hq : 0 < q) (hp : |p| ≤ b * q) : |rne p q| ≤ b := by
  obtain ⟨hdist, -⟩ := rne_isNearestEven p hq.ne'
  rw [abs_of_pos hq, abs_le] at hdist
  rw [abs_le] at hp ⊢
  constructor
  · by_contra hlt
    have : q * rne p q ≤ q * (-b - 1) := mul_le_mul_of_nonneg_left (by omega) hq.le
    linarith
  · by_contra hlt
    have : q * (b + 1) ≤ q * rne p q := mul_le_mul_of_nonneg_left (by omega) hq.le
    linarith

theorem abs_mdctCoeff_le (s : State) (zin : Bool) {n : Nat} (hn : n ≤ 4096) (k : Nat) :
    |rne (kernelFormula n (foldFormula n (blockSample s zin n)) k) (2 ^ 30)| ≤ 2 ^ 28 := by
  have hu := abs_foldFormula_le (abs_blockSample_le s zin n) n
  refine abs_rne_le (by norm_num) ((abs_sum_mul_le n hu fun m => abs_cosq_le (8 * n) _).trans ?_)
  norm_num
  omega

theorem abs_rowFormula_le (s : State) (zin : Bool) {n : Nat} (hn : n ≤ 4096) (i : Nat) :
    |rowFormula n (windowFormula s zin n) i| ≤ 2 ^ 28 := by
  have hg := abs_windowFormula_le s zin n
  have hsize : ((2 * n : Nat) : Int) * (2 ^ 15 * 2 ^ 15 * 2 ^ 30) ≤ 2 ^ 28 * 2 ^ 45 := by norm_num; omega
  rw [rowFormula]
  split
  case isTrue => exact abs_rne_le (by norm_num) ((abs_sum_mul_le _ hg fun m => abs_cosq_le _ _).trans hsize)
  case isFalse =>
    refine abs_rne_le (by norm_num) ?_
    rw [abs_neg]
    exact (abs_sum_mul_le _ hg fun m => abs_sinq_le _ _).trans hsize

end Sys2Proof.Machine
end

section
/-! PROOF. The writes of the transform family (41_transform.md R145, R146, R150, R152): what a read returns after a
write to this or to another RAM, and the frame of a chain of writes, built up one write at a time. -/

namespace Sys2Proof.Machine

open Sys2Proof.Config (RamId)

theorem State.histEntry_storeWords (s : State) {r : RamId} (hr : r ≠ .hist) (a i : Nat) (ws : List Word) :
    (s.storeWords r a ws).histEntry i = s.histEntry i := by
  simp only [State.histEntry, State.storeWords, State.ramByte_store_other _ _ _ _ _ _ hr.symm]

theorem State.olaWord_storeWords_zero (s : State) (i : Nat) (ws : List Word) :
    (s.storeWords .ola 0 ws).olaWord i = if h : i < ws.length then ws[i] else s.olaWord i := by
  have hword := s.ramWord_storeWords .ola .ola 0 i ws
  simpa [State.olaWord] using hword

theorem State.olaWord_storeWords_dmem (s : State) (a i : Nat) (ws : List Word) :
    (s.storeWords .dmem a ws).olaWord i = s.olaWord i := by
  have hword := s.ramWord_storeWords .dmem .ola a i ws
  simpa [State.olaWord] using hword

@[simp] theorem State.complete_histEntry (s : State) (i : Nat) : s.complete.histEntry i = s.histEntry i := rfl

@[simp] theorem State.complete_olaWord (s : State) (i : Nat) : s.complete.olaWord i = s.olaWord i := rfl

@[simp] theorem State.note_olaWord (s : State) (a b : Bool) (i : Nat) : (s.note a b).olaWord i = s.olaWord i := rfl

@[simp] theorem State.complete_dmemInt (s : State) (i : Nat) : s.complete.dmemInt i = s.dmemInt i := rfl

/-- Element i of a vector written to DMEM. -/
theorem State.dmemInt_storeWords_vec (s : State) (a : Nat) {n i : Nat} (f : Nat → Word) (hi : i < n) :
    (s.storeWords .dmem a (vec n f)).dmemInt (a + i) = sext (f i) := by
  rw [State.dmemInt, State.dmemWord_storeWords, dif_pos (by rw [vec_length]; omega), vec_getElem,
    Nat.add_sub_cancel_left]

/-- Element i of a vector written to OLA. -/
theorem State.olaWord_storeWords_vec (s : State) {n i : Nat} (f : Nat → Word) (hi : i < n) :
    (s.storeWords .ola 0 (vec n f)).olaWord i = f i := by
  rw [State.olaWord_storeWords_zero, dif_pos (by rwa [vec_length]), vec_getElem]

/-- A hop's sample is a 16-bit value, so its HIST entry holds it exactly. -/
theorem sext_ofInt_hopSample (s : State) (zin : Bool) (i : Nat) :
    sext (BitVec.ofInt 16 (hopSample s zin i)) = hopSample s zin i := by
  cases zin
  case false => exact congrArg sext (BitVec.ofInt_toInt (x := (s.dmemWord (s.src0 + i)).extractLsb' 0 16))
  case true => rfl

theorem State.histEntry_saveHop (s : State) (zin : Bool) {n i : Nat} (hi : i < n) :
    sext ((s.saveHop zin n).histEntry i) = hopSample s zin i := by
  rw [State.saveHop, inputHop_eq_vec, vec_map, State.histEntry_storeHist, dif_pos (by rwa [vec_length]), vec_getElem,
    sext_ofInt_hopSample]

theorem RamsSameBut.trans {w w' : RamId → Nat → Prop} {s u t : State} (hsu : RamsSameBut w s u)
    (hut : RamsSameBut w' u t) : RamsSameBut (fun r x => w r x ∨ w' r x) s t := by
  intro r x hout
  obtain ⟨hw, hw'⟩ := not_or.mp hout
  exact (hut r x hw').trans (hsu r x hw)

theorem RamsSameBut.mono {w w' : RamId → Nat → Prop} {s t : State} (h : RamsSameBut w s t)
    (hsub : ∀ r x, w r x → w' r x) : RamsSameBut w' s t :=
  fun r x hout => h r x fun hw => hout (hsub r x hw)

theorem State.storeWords_frame (s : State) (ram : RamId) (a : Nat) (ws : List Word) :
    RamsSameBut (wordsOf ram a ws.length) s (s.storeWords ram a ws) := by
  intro r x hout
  rw [State.ramByte_storeWords, dif_neg]
  exact hout

theorem State.storeHist_frame (s : State) (hs : List Half) : RamsSameBut (histOf hs.length) s (s.storeHist hs) := by
  intro r x hout
  rw [State.ramByte_storeHist, dif_neg]
  exact hout

theorem State.saveHop_frame (s : State) (zin : Bool) (n : Nat) : RamsSameBut (histOf n) s (s.saveHop zin n) := by
  have hframe := s.storeHist_frame ((s.inputHop zin n).map (BitVec.ofInt 16))
  rw [List.length_map, inputHop_eq_vec, vec_length] at hframe
  exact hframe

/-- Writes, flags and the in-flight command are no registers. -/
theorem sameRegs_update (s : State) (r : Rams) (f : Flags) (c : Option Word) :
    SameRegs s { s with ram := r, flags := f, inflight := c } :=
  ⟨rfl, rfl, rfl, rfl, rfl, rfl, rfl, rfl, rfl, rfl, rfl, rfl, rfl, rfl⟩

/-- A completion (R121) of a state whose flags are the old ones but SAT. -/
theorem completed_of_flags {s u : State} {sat : Bool} {p : Prop} (hsat : sat = true ↔ p)
    (hflags : u.flags = { s.flags with sat := s.flags.sat || sat }) : Completed s u.complete p False := by
  simp [Completed, hflags, hsat]

theorem completed_of_same_flags {s u : State} (hflags : u.flags = s.flags) : Completed s u.complete False False :=
  completed_of_flags (sat := false) (by simp) (by simp [hflags])

end Sys2Proof.Machine
end

section
/-! PROOF. The ends of a transform command: the opcodes' used bits (R92), the two checks in order (R144, R123), and
XF_RESET (R145), which has no check. -/

namespace Sys2Proof.Machine

theorem opcodeEntry_xfReset {w : Word} (hopc : opcField w = 0x01) : opcodeEntry w = some (0x000000FF, .xfReset) := by
  rw [opcodeEntry, hopc]
  rfl

theorem opcodeEntry_mdctFwd {w : Word} (hopc : opcField w = 0x10) :
    opcodeEntry w = some (0x000001FF, .mdctFwd (zinField w)) := by
  rw [opcodeEntry, hopc]
  rfl

theorem opcodeEntry_mdctInv {w : Word} (hopc : opcField w = 0x11) :
    opcodeEntry w = some (0x000002FF, .mdctInv (nowrField w)) := by
  rw [opcodeEntry, hopc]
  rfl

theorem opcodeEntry_stftFwd {w : Word} (hopc : opcField w = 0x12) :
    opcodeEntry w = some (0x000001FF, .stftFwd (zinField w)) := by
  rw [opcodeEntry, hopc]
  rfl

theorem opcodeEntry_stftInv {w : Word} (hopc : opcField w = 0x13) :
    opcodeEntry w = some (0x000002FF, .stftInv (nowrField w)) := by
  rw [opcodeEntry, hopc]
  rfl

theorem State.mdctHopOk_iff (s : State) :
    s.mdctHopOk = true ↔ s.hop % 2 = 0 ∧ 2 ≤ s.hop ∧ s.hop ≤ s.cfg.nmax := by
  simp [State.mdctHopOk, and_assoc]

theorem State.stftHopOk_iff (s : State) : s.stftHopOk = true ↔ 1 ≤ s.hop ∧ s.hop ≤ s.cfg.nmax := by
  simp [State.stftHopOk]

theorem State.regionOk_iff (s : State) (base len : Nat) : s.regionOk base len = true ↔ Passes s base len := by
  simp [State.regionOk, Passes]

/-- The region checks of a forward transform: (SRC0, n) is tested only when ZIN = 0. -/
theorem State.forwardRegionsOk_iff (s : State) (zin : Bool) (n len : Nat) :
    ((zin || s.regionOk s.src0 n) && s.regionOk s.dst len) = true ↔
      (zin = false → Passes s s.src0 n) ∧ Passes s s.dst len := by
  cases zin <;> simp [s.regionOk_iff]

/-- The region checks of an inverse transform: (DST, n) is tested only when NOWR = 0. -/
theorem State.inverseRegionsOk_iff (s : State) (nowr : Bool) (len n : Nat) :
    (s.regionOk s.src0 len && (nowr || s.regionOk s.dst n)) = true ↔
      Passes s s.src0 len ∧ (nowr = false → Passes s s.dst n) := by
  cases nowr <;> simp [s.regionOk_iff]

/-- A command that tests its hop, then its regions, and else completes (R144, R123): the three ends are exclusive and in
this order. -/
theorem ends_of_hop_then_regions {i : Instr} {s u : State} {hopOk regionsOk : Bool} {legal passes : Prop}
    {post : State → Prop}
    (hexec : exec i s = if !hopOk then fail .badParam s else if !regionsOk then fail .addrRange s else finish u)
    (hhop : hopOk = true ↔ legal) (hregions : regionsOk = true ↔ passes) (hpost : legal → passes → post u.complete) :
    (¬legal → EndsWith 0x03 i s) ∧ (legal → ¬passes → EndsWith 0x06 i s) ∧
      (legal → passes → ∃ t, exec i s = .next t ∧ post t) := by
  rw [EndsWith, EndsWith, hexec, ← hhop, ← hregions]
  refine ⟨fun hillegal => ?_, fun hlegal hfails => ?_, fun hlegal hpasses => ⟨u.complete, ?_, ?_⟩⟩
  · simp [hillegal, fail_eq_errorState, ErrCode.code]
  · simp [hlegal, hfails, fail_eq_errorState, ErrCode.code]
  · simp [hlegal, hpasses, finish]
  · exact hpost (hhop.mp hlegal) (hregions.mp hpasses)

/-- Settles O20: the two writes cover all `nmax` entries of HIST and of OLA, and neither touches the other's RAM. -/
theorem xfResetZeroesOverlapMemory : Obligations.XfResetZeroesOverlapMemory := by
  refine ⟨reservedFieldRefused_of_entry fun _ hopc => ⟨_, opcodeEntry_xfReset hopc⟩, fun s => ?_⟩
  refine ⟨_, rfl, completed_of_same_flags rfl, sameRegs_update s _ _ _, fun i hi => ⟨?_, ?_⟩, ?_⟩
  · rw [State.complete_histEntry, State.histEntry_storeWords _ (by decide), State.histEntry_storeHist,
      dif_pos (by simpa using hi), List.getElem_replicate]
  · rw [State.complete_olaWord, State.olaWord_storeWords_zero, dif_pos (by simpa using hi), List.getElem_replicate]
  · have hhist := s.storeHist_frame (List.replicate s.cfg.nmax 0)
    have hola := State.storeWords_frame (s.storeHist (List.replicate s.cfg.nmax 0)) .ola 0
      (List.replicate s.cfg.nmax 0)
    rw [List.length_replicate] at hhist hola
    exact hhist.trans hola

end Sys2Proof.Machine
end

section
/-! PROOF. The forward transforms MDCT_FWD and STFT_FWD (R146, R152): HIST keeps the hop, DMEM holds the row. -/

namespace Sys2Proof.Machine

/-- What a forward transform of hop n does, for the `len` values of its row (R146, R152). -/
def EmitsRow (zin : Bool) (n len : Nat) (row : Nat → Int) (s t : State) : Prop :=
  Completed s t False False ∧ SameRegs s t ∧
  RamsSameBut (fun r x => histOf n r x ∨ wordsOf .dmem s.dst len r x) s t ∧
  (∀ i < n, sext (t.histEntry i) = hopSample s zin i) ∧
  ∀ k < len, t.dmemInt (s.dst + k) = row k

/-- A row of values that fit 32 bits is written exactly. -/
theorem emitsRow_of_range (zin : Bool) (n len : Nat) {row : Nat → Int} (s : State) (hrow : ∀ k, |row k| ≤ 2 ^ 28) :
    EmitsRow zin n len row s
      ((s.saveHop zin n).storeWords .dmem s.dst ((vec len row).map bits32)).complete := by
  rw [vec_map]
  refine ⟨completed_of_same_flags rfl, sameRegs_update s _ _ _, ?_, fun i hi => ?_, fun k hk => ?_⟩
  · have hdmem := (s.saveHop zin n).storeWords_frame .dmem s.dst (vec len fun k => bits32 (row k))
    rw [vec_length] at hdmem
    exact (s.saveHop_frame zin n).trans hdmem
  · rw [State.complete_histEntry, State.histEntry_storeWords _ (by decide), State.histEntry_saveHop s zin hi]
  · have hfits := abs_le.mp (hrow k)
    rw [State.complete_dmemInt, State.dmemInt_storeWords_vec _ _ _ hk]
    exact sext_bits32 _ (by omega) (by omega)

theorem nmax_le_of_legal {s : State} (hcfg : s.cfg.Legal) : s.cfg.nmax ≤ 4096 := by
  obtain ⟨-, -, hnmax, -⟩ := hcfg
  exact hnmax

/-- Settles O21: the model's coefficients are the vector of R146's formula, each below 2^28. -/
theorem mdctFwdIsFoldedDct : Obligations.MdctFwdIsFoldedDct := by
  refine ⟨reservedFieldRefused_of_entry fun _ hopc => ⟨_, opcodeEntry_mdctFwd hopc⟩, fun zin s hcfg => ?_⟩
  refine ends_of_hop_then_regions rfl s.mdctHopOk_iff (s.forwardRegionsOk_iff zin s.hop s.hop) ?_
  rintro ⟨heven, -, hle⟩ -
  rw [inputBlock_eq_vec, mdctCoeffs_vec heven]
  exact emitsRow_of_range zin s.hop s.hop s (abs_mdctCoeff_le s zin (hle.trans (nmax_le_of_legal hcfg)))

/-- Settles O23: the model's row is the vector of R152's values, each below 2^28, re[k] at 2k and im[k] at 2k + 1. -/
theorem stftFwdIsWindowedDft : Obligations.StftFwdIsWindowedDft := by
  refine ⟨reservedFieldRefused_of_entry fun _ hopc => ⟨_, opcodeEntry_stftFwd hopc⟩, fun zin s hcfg => ?_⟩
  refine ends_of_hop_then_regions rfl s.stftHopOk_iff (s.forwardRegionsOk_iff zin s.hop (2 * s.hop + 2)) ?_
  rintro ⟨-, hle⟩ -
  rw [stftRow_inputBlock]
  obtain ⟨hcompleted, hregs, hframe, hhist, hrow⟩ := emitsRow_of_range zin s.hop (2 * s.hop + 2) s
    (abs_rowFormula_le s zin (hle.trans (nmax_le_of_legal hcfg)))
  refine ⟨hcompleted, hregs, hframe, hhist, fun k hk => ⟨?_, ?_⟩⟩
  · rw [← rowFormula_even]
    exact hrow (2 * k) (by omega)
  · rw [← rowFormula_odd]
    exact hrow (2 * k + 1) (by omega)

end Sys2Proof.Machine
end

section
/-! PROOF. The inverse transforms MDCT_INV and STFT_INV (R149, R153) with their common end: SAT32 of the block, then the
overlap-add of R150. -/

namespace Sys2Proof.Machine

/-- Where SAT comes from in an inverse transform (R149, R150, R153): a SAT32 of y or a SAT16 of an output clips. -/
def blockClips (s : State) (n : Nat) (y : Nat → Int) : Bool :=
  (vec (n + n) y).any clips32 || (vec n (outputFormula s y)).any clips16

theorem blockClips_iff (s : State) (n : Nat) (y : Nat → Int) :
    blockClips s n y = true ↔
      (∃ i < 2 * n, clips32 (y i) = true) ∨ ∃ i < n, clips16 (outputFormula s y i) = true := by
  rw [blockClips, Bool.or_eq_true, vec_any, vec_any, two_mul]

/-- OLA and SAT after an inverse transform: the state before the outputs are written. -/
def State.overlapped (n : Nat) (y : Nat → Int) (s : State) : State :=
  (s.storeWords .ola 0 (vec n fun i => bits32 (sat32 (y (n + i))))).note (blockClips s n y) false

/-- The output words of an inverse transform. -/
def outputWords (s : State) (n : Nat) (y : Nat → Int) : List Word := vec n fun i => bits32 (sat16 (outputFormula s y i))

theorem overlapSums_vec (s : State) (n : Nat) (y : Nat → Int) :
    s.overlapSums n (vec (n + n) fun i => sat32 (y i)) = vec n (outputFormula s y) :=
  vec_congr fun i hi => by rw [elemAt_vec _ _ _ (by omega)]; rfl

theorem State.note_note (s : State) (a b : Bool) : (s.note a false).note b false = s.note (a || b) false := by
  simp [State.note, Bool.or_assoc]

theorem State.note_storeWords (s : State) (r : Config.RamId) (i : Nat) (ws : List Word) (a b : Bool) :
    (s.note a b).storeWords r i ws = (s.storeWords r i ws).note a b := rfl

/-- The end of an inverse transform as one write to OLA and, without NOWR, one to DMEM. -/
theorem emitBlock_vec (s : State) (n : Nat) (y : Nat → Int) (nowr : Bool) :
    s.emitBlock n (vec (n + n) y) nowr =
      if nowr then s.overlapped n y else (s.overlapped n y).storeWords .dmem s.dst (outputWords s n y) := by
  have hsums : (s.note ((vec (n + n) y).any clips32) false).overlapSums n (vec (n + n) fun i => sat32 (y i)) =
      vec n (outputFormula s y) := overlapSums_vec s n y
  simp only [State.emitBlock, State.overlapAdd, vec_map, vec_drop, hsums, State.note_storeWords, State.note_note]
  rfl

theorem overlapped_frame (s : State) (n : Nat) (y : Nat → Int) :
    RamsSameBut (wordsOf .ola 0 n) s (s.overlapped n y) := by
  have hola := s.storeWords_frame .ola 0 (vec n fun i => bits32 (sat32 (y (n + i))))
  rwa [vec_length] at hola

theorem olaWord_overlapped (s : State) {n i : Nat} (y : Nat → Int) (hi : i < n) :
    sext ((s.overlapped n y).olaWord i) = sat32 (y (n + i)) := by
  rw [State.overlapped, State.note_olaWord, State.olaWord_storeWords_vec _ _ hi, sext_bits32_sat32]

theorem overlapped_flags (s : State) (n : Nat) (y : Nat → Int) :
    (s.overlapped n y).flags = { s.flags with sat := s.flags.sat || blockClips s n y } := by
  simp [State.overlapped]

/-- The end of an inverse transform does what R149, R150 and R153 say, for every block y of 2n values. -/
theorem emitBlock_emitsBlock (nowr : Bool) (n : Nat) (y : Nat → Int) (s : State) :
    EmitsBlock nowr n y s (s.emitBlock n (vec (n + n) y) nowr).complete := by
  have hsat := blockClips_iff s n y
  have hflags := overlapped_flags s n y
  have hframe := overlapped_frame s n y
  rw [emitBlock_vec]
  cases nowr
  case true =>
    exact ⟨completed_of_flags hsat hflags, sameRegs_update s _ _ _, hframe.mono fun _ _ => .inl,
      fun i hi => olaWord_overlapped s y hi, by simp⟩
  case false =>
    refine ⟨completed_of_flags hsat hflags, sameRegs_update s _ _ _, ?_, fun i hi => ?_, fun _ i hi => ?_⟩
    · have hdmem := (s.overlapped n y).storeWords_frame .dmem s.dst (outputWords s n y)
      rw [outputWords, vec_length] at hdmem
      exact (hframe.trans hdmem).mono fun r x => Or.imp_right fun hx => ⟨rfl, hx⟩
    · exact (congrArg sext (State.olaWord_storeWords_dmem _ _ _ _)).trans (olaWord_overlapped s y hi)
    · exact (State.dmemInt_storeWords_vec _ _ _ hi).trans (sext_bits32_sat16 _)

/-- Settles O22: the model's block is the vector of R149's formula, and every such block is emitted as R150 says. -/
theorem mdctInvUnfoldsAndOverlapAdds : Obligations.MdctInvUnfoldsAndOverlapAdds := by
  refine ⟨reservedFieldRefused_of_entry fun _ hopc => ⟨_, opcodeEntry_mdctInv hopc⟩, fun nowr s => ?_⟩
  refine ends_of_hop_then_regions rfl s.mdctHopOk_iff (s.inverseRegionsOk_iff nowr s.hop s.hop) ?_
  rintro ⟨heven, -, -⟩ -
  rw [mdctBlock_inputCoeffs s heven]
  exact emitBlock_emitsBlock nowr s.hop (mdctInvFormula s s.hop) s

/-- Settles O24: the model's block is the vector of R153's formula, and every such block is emitted as R150 says. -/
theorem stftInvSynthesisesAndOverlapAdds : Obligations.StftInvSynthesisesAndOverlapAdds := by
  refine ⟨reservedFieldRefused_of_entry fun _ hopc => ⟨_, opcodeEntry_stftInv hopc⟩, fun nowr s => ?_⟩
  refine ends_of_hop_then_regions rfl s.stftHopOk_iff (s.inverseRegionsOk_iff nowr (2 * s.hop + 2) s.hop) ?_
  rintro - -
  rw [stftBlock_inputBins]
  exact emitBlock_emitsBlock nowr s.hop (stftInvFormula s s.hop) s

end Sys2Proof.Machine
end

section
/-! PROOF. What an element-wise command leaves (R125), once for all of them: when element i of the loop computes `e i`
from the state that the elements before it left, the flags, the registers, the bytes and the destination words are
those of `e`. -/

namespace Sys2Proof.Machine

theorem State.unaryRegionsOk_iff (s : State) : s.unaryRegionsOk = true ↔ UnaryPasses s := by
  rw [State.unaryRegionsOk, Bool.and_eq_true, s.regionOk_iff, s.regionOk_iff, UnaryPasses]

theorem State.not_unaryRegionsOk_iff (s : State) : (!s.unaryRegionsOk) = true ↔ ¬UnaryPasses s := by
  rw [Bool.not_eq_true', ← Bool.not_eq_true, s.unaryRegionsOk_iff]

/-- A check that fails ends the command with its error. -/
theorem endsWith_of_check {i : Instr} {s : State} {c : ErrCode} {p : Prop} [Decidable p]
    {o : Host.Outcome State Fault Refusal} (hexec : exec i s = if p then fail c s else o) (hp : p) :
    EndsWith c.code i s := by
  rw [EndsWith, hexec, if_pos hp, fail_eq_errorState]

/-- A check that passes leaves the command to what follows it. -/
theorem exec_of_check_passed {i : Instr} {s : State} {c : ErrCode} {p passes : Prop} [Decidable p]
    {o : Host.Outcome State Fault Refusal} (hexec : exec i s = if p then fail c s else o) (hcheck : p ↔ ¬passes)
    (hpasses : passes) : exec i s = o :=
  hexec.trans (if_neg fun hp => hcheck.mp hp hpasses)

@[simp] theorem elementLoop_src0 (f : State → Nat → Elem) (dst k i : Nat) (s : State) :
    (elementLoop f dst k i s).src0 = s.src0 := by simp [State.src0]

@[simp] theorem elementLoop_src1 (f : State → Nat → Elem) (dst k i : Nat) (s : State) :
    (elementLoop f dst k i s).src1 = s.src1 := by simp [State.src1]

@[simp] theorem elementLoop_src2 (f : State → Nat → Elem) (dst k i : Nat) (s : State) :
    (elementLoop f dst k i s).src2 = s.src2 := by simp [State.src2]

/-- An input of element i is the word of R125's element order. -/
theorem elementLoop_dmemInt (f : State → Nat → Elem) {s : State} {i : Nat} (hi : i < s.count) (x : Nat) :
    (elementLoop f s.dst i 0 s).dmemInt x = sext (readBy s (elementWise f s) i x) :=
  congrArg sext (elementLoop_dmemWord_read f s.dst s.count s i x hi)

/-- A completion of an element-wise command from s to t whose element i is `e i`. -/
def ElementsWritten (e : Nat → Elem) (s t : State) : Prop :=
  Completed s t (∃ i < s.count, (e i).sat = true) (∃ i < s.count, (e i).divz = true) ∧
  SameRegs s t ∧ RamsSameBut (wordsOf .dmem s.dst s.count) s t ∧
  ∀ i < s.count, t.dmemInt (s.dst + i) = sext (e i).word

theorem elementWise_elementsWritten {f : State → Nat → Elem} {s : State} {e : Nat → Elem}
    (he : ∀ i < s.count, f (elementLoop f s.dst i 0 s) i = e i) : ElementsWritten e s (elementWise f s).complete := by
  have hraised (raises : Elem → Bool) :
      (List.range s.count).any (fun i => raises (f (elementLoop f s.dst i 0 s) i)) = true ↔
        ∃ i < s.count, raises (e i) = true := by
    rw [List.any_eq_true]
    simp only [List.mem_range]
    exact exists_congr fun i => and_congr_right fun hi => by rw [he i hi]
  refine ⟨?_, ?_, fun r x hout => ?_, fun i hi => ?_⟩
  · simp [Completed, elementWise, elementLoop_flags, ← hraised]
  · rw [elementWise, elementLoop_fields]
    exact sameRegs_update s _ _ _
  · exact elementLoop_ramByte f s.dst s.count 0 s r x hout
  · exact congrArg sext ((elementLoop_dmemWord f s.dst s.count s i hi).trans (congrArg Elem.word (he i hi)))

/-- Elements that are a SAT32 raise SAT where it clips, and never DIVZ (R11). -/
theorem ElementsWritten.of_saturated {v : Nat → Int} {s t : State}
    (h : ElementsWritten (fun i => Elem.saturated (v i)) s t) :
    Completed s t (∃ i < s.count, clips32 (v i) = true) False ∧ SameRegs s t ∧
      RamsSameBut (wordsOf .dmem s.dst s.count) s t ∧ ∀ i < s.count, t.dmemInt (s.dst + i) = sat32 (v i) := by
  simpa only [ElementsWritten, Elem.saturated, sext_bits32_sat32, Bool.false_eq_true, and_false, exists_false] using h

end Sys2Proof.Machine
end

section
/-! PROOF. The commands MUPD, SHIFT and UNSHIFT (42_nmf_scaling.md R183 to R187). -/

namespace Sys2Proof.Machine

theorem opcodeEntry_mupd {w : Word} (hopc : opcField w = 0x2B) : opcodeEntry w = some (0x000000FF, .mupd) := by
  rw [opcodeEntry, hopc]
  rfl

theorem opcodeEntry_shift {w : Word} (hopc : opcField w = 0x2C) : opcodeEntry w = some (0x000000FF, .shift) := by
  rw [opcodeEntry, hopc]
  rfl

theorem opcodeEntry_unshift {w : Word} (hopc : opcField w = 0x2D) : opcodeEntry w = some (0x000000FF, .unshift) := by
  rw [opcodeEntry, hopc]
  rfl

/-! ### UNSHIFT -/

theorem unshiftElem_elementLoop {s : State} {i : Nat} (hi : i < s.count) :
    unshiftElem (elementLoop unshiftElem s.dst i 0 s) i =
      Elem.saturated (sext (readBy s (elementWise unshiftElem s) i (s.src0 + i)) - zext s.shiftv) := by
  rw [unshiftElem, elementLoop_src0, elementLoop_dmemInt _ hi, elementLoop_shiftv]

/-- Settles O36: one check, then the SAT32 of x - SHIFTV for each element. -/
theorem unshiftSubtractsScalar : Obligations.UnshiftSubtractsScalar := by
  refine ⟨reservedFieldRefused_of_entry fun _ hopc => ⟨_, opcodeEntry_unshift hopc⟩, fun s => ?_⟩
  have hexec : exec .unshift s =
      if !s.unaryRegionsOk then fail .addrRange s else finish (elementWise unshiftElem s) := rfl
  refine ⟨fun hfails => endsWith_of_check hexec (s.not_unaryRegionsOk_iff.mpr hfails), fun hpasses => ?_⟩
  refine ⟨_, exec_of_check_passed hexec s.not_unaryRegionsOk_iff hpasses, ?_⟩
  exact (elementWise_elementsWritten fun _ hi => unshiftElem_elementLoop hi).of_saturated

/-! ### SHIFT -/

theorem minUpTo_le (f : Nat → Int) {k i : Nat} (hi : i ≤ k) : minUpTo f k ≤ f i := by
  induction k with
  | zero => rw [Nat.le_zero.mp hi, minUpTo]
  | succ k ih =>
    obtain hlast | hearlier := hi.eq_or_lt
    · rw [hlast]
      exact min_le_right _ _
    · exact (min_le_left _ _).trans (ih (Nat.lt_succ_iff.mp hearlier))

theorem exists_minUpTo_eq (f : Nat → Int) (k : Nat) : ∃ i ≤ k, minUpTo f k = f i := by
  induction k with
  | zero => exact ⟨0, le_rfl, rfl⟩
  | succ k ih =>
    obtain ⟨i, hi, heq⟩ := ih
    obtain hmin | hmin := min_choice (minUpTo f k) (f (k + 1))
    · exact ⟨i, by omega, hmin.trans heq⟩
    · exact ⟨k + 1, le_rfl, hmin⟩

/-- The minimum of SHIFT's inputs before the command (R186). -/
def State.shiftMin (s : State) : Int := minUpTo (fun i => s.dmemInt (s.src0 + i)) (s.count - 1)

theorem State.shiftMin_le (s : State) {i : Nat} (hi : i < s.count) : s.shiftMin ≤ s.dmemInt (s.src0 + i) :=
  minUpTo_le (fun i => s.dmemInt (s.src0 + i)) (by omega)

theorem State.exists_shiftMin_eq {s : State} (hcount : s.count ≠ 0) :
    ∃ i < s.count, s.shiftMin = s.dmemInt (s.src0 + i) := by
  obtain ⟨i, hi, heq⟩ := exists_minUpTo_eq (fun i => s.dmemInt (s.src0 + i)) (s.count - 1)
  exact ⟨i, by omega, heq⟩

theorem State.shiftScalar_eq_abs (s : State) : (s.shiftScalar : Int) = |s.shiftMin| := Int.natCast_natAbs _

/-- The scalar is at most 2^31, so SHIFTV holds it exactly. -/
theorem State.zext_shiftScalar {s : State} (hcount : s.count ≠ 0) :
    zext (BitVec.ofNat 32 s.shiftScalar) = s.shiftScalar := by
  obtain ⟨i, -, hmin⟩ := State.exists_shiftMin_eq hcount
  have hrange := sext_word_range (s.dmemWord (s.src0 + i))
  have habs : (s.shiftScalar : Int) ≤ 2 ^ 31 := by
    rw [s.shiftScalar_eq_abs, hmin, State.dmemInt, abs_le]
    omega
  rw [zext, BitVec.toNat_ofNat, Nat.mod_eq_of_lt (by omega)]

theorem shiftElem_elementLoop (scalar : Nat) {s : State} {i : Nat} (hi : i < s.count) :
    shiftElem scalar (elementLoop (shiftElem scalar) s.dst i 0 s) i =
      Elem.saturated (sext (readBy s (elementWise (shiftElem scalar) s) i (s.src0 + i)) + scalar) := by
  rw [shiftElem, elementLoop_src0, elementLoop_dmemInt _ hi]

theorem SameRegs.restore_shiftv {s t : State} (h : SameRegs s t) : SameRegs s { t with shiftv := s.shiftv } := by
  have ⟨_, _, _, _, _, hshiftv, _⟩ := h
  rwa [← hshiftv]

/-- Settles O35: two checks, then SHIFTV becomes the |min| of the inputs, which the SAT32 of x + |min| uses. -/
theorem shiftAddsAbsoluteMinimum : Obligations.ShiftAddsAbsoluteMinimum := by
  refine ⟨reservedFieldRefused_of_entry fun _ hopc => ⟨_, opcodeEntry_shift hopc⟩, fun s => ?_⟩
  have hexec : exec .shift s =
      if s.count = 0 then fail .badParam s else if !s.unaryRegionsOk then fail .addrRange s
      else finish { elementWise (shiftElem s.shiftScalar) s with shiftv := BitVec.ofNat 32 s.shiftScalar } := rfl
  have hregions (hcount : s.count ≠ 0) := hexec.trans (if_neg hcount)
  refine ⟨endsWith_of_check hexec,
    fun hcount hfails => endsWith_of_check (hregions hcount) (s.not_unaryRegionsOk_iff.mpr hfails),
    fun hcount hpasses => ⟨_, s.shiftMin,
      exec_of_check_passed (hregions hcount) s.not_unaryRegionsOk_iff hpasses,
      fun _ hi => s.shiftMin_le hi, State.exists_shiftMin_eq hcount, ?_, ?_⟩⟩
  · exact (congrArg Nat.cast (State.zext_shiftScalar hcount)).trans s.shiftScalar_eq_abs
  · obtain ⟨hcompleted, hregs, hrams, hvalues⟩ :=
      (elementWise_elementsWritten fun _ hi => shiftElem_elementLoop s.shiftScalar hi).of_saturated
    rw [s.shiftScalar_eq_abs] at hcompleted hvalues
    exact ⟨hcompleted, hregs.restore_shiftv, hrams, hvalues⟩

/-! ### MUPD -/

theorem mupdOf_sat_iff (a b c : Int) : (mupdOf a b c).sat = true ↔ c ≠ 0 ∧ clips32 (rne (a * b) c) = true := by
  unfold mupdOf
  split_ifs <;> simp [Elem.saturated, *]

theorem mupdOf_divz_iff (a b c : Int) : (mupdOf a b c).divz = true ↔ c = 0 ∧ b ≠ 0 := by
  unfold mupdOf
  split_ifs <;> simp [Elem.saturated, *]

theorem sext_mupdOf_word (a b c : Int) :
    sext (mupdOf a b c).word =
      if c = 0 then (if b = 0 then 0 else if a = 0 then 0 else 2 ^ 31 - 1) else sat32 (rne (a * b) c) := by
  unfold mupdOf
  split_ifs
  · rfl
  · rfl
  · rfl
  · exact sext_bits32_sat32 _

theorem mupdElem_elementLoop {s : State} {i : Nat} (hi : i < s.count) :
    mupdElem (elementLoop mupdElem s.dst i 0 s) i =
      mupdOf (sext (readBy s (elementWise mupdElem s) i (s.src0 + i)))
        (sext (readBy s (elementWise mupdElem s) i (s.src1 + i)))
        (sext (readBy s (elementWise mupdElem s) i (s.src2 + i))) := by
  simp only [mupdElem, elementLoop_src0, elementLoop_src1, elementLoop_src2, elementLoop_dmemInt _ hi]

/-- MUPD's four regions pass (R184). -/
def State.MupdPasses (s : State) : Prop :=
  Passes s s.src0 s.count ∧ Passes s s.src1 s.count ∧ Passes s s.src2 s.count ∧ Passes s s.dst s.count

theorem State.mupdRegions_fail_iff (s : State) :
    (!(s.regionOk s.src0 s.count && s.regionOk s.src1 s.count && s.regionOk s.src2 s.count
      && s.regionOk s.dst s.count)) = true ↔ ¬s.MupdPasses := by
  rw [Bool.not_eq_true', ← Bool.not_eq_true]
  simp only [Bool.and_eq_true, s.regionOk_iff, and_assoc, State.MupdPasses]

theorem State.anyNegative_iff (s : State) :
    s.anyNegative = true ↔ ∃ i < s.count, s.dmemInt (s.src0 + i) < 0 ∨ s.dmemInt (s.src1 + i) < 0 ∨
      s.dmemInt (s.src2 + i) < 0 := by
  simp [State.anyNegative, or_assoc]

/-- Settles O33: two checks, then `mupdOf`, which is R184's factor, for each element. -/
theorem mupdWritesFactors : Obligations.MupdWritesFactors := by
  refine ⟨reservedFieldRefused_of_entry fun _ hopc => ⟨_, opcodeEntry_mupd hopc⟩, fun s => ?_⟩
  have hexec : exec .mupd s =
      if !(s.regionOk s.src0 s.count && s.regionOk s.src1 s.count && s.regionOk s.src2 s.count
        && s.regionOk s.dst s.count) then fail .addrRange s
      else if s.anyNegative then fail .negativeInput s else finish (elementWise mupdElem s) := rfl
  have hsigns (hpasses : s.MupdPasses) := exec_of_check_passed hexec s.mupdRegions_fail_iff hpasses
  refine ⟨fun hfails => endsWith_of_check hexec (s.mupdRegions_fail_iff.mpr hfails),
    fun hpasses hnegative => endsWith_of_check (hsigns hpasses) (s.anyNegative_iff.mpr hnegative),
    fun hpasses hnonneg => ⟨_, (hsigns hpasses).trans (if_neg (mt s.anyNegative_iff.mp hnonneg)), ?_⟩⟩
  have hwritten := elementWise_elementsWritten fun _ hi => mupdElem_elementLoop (s := s) hi
  simp only [ElementsWritten, mupdOf_sat_iff, mupdOf_divz_iff, sext_mupdOf_word] at hwritten
  exact hwritten

end Sys2Proof.Machine
end

section
/-! PROOF. The ends of the quantizer, compander and remap commands (43_quant_compand.md R200 to R217): the opcodes' used
bits (R92), the checks in order, and what an element writes when it raises no flag. -/

namespace Sys2Proof.Machine

theorem opcodeEntry_qConfig {w : Word} (hopc : opcField w = 0x20) : opcodeEntry w = some (0x000000FF, .qConfig) := by
  rw [opcodeEntry, hopc]
  rfl

theorem opcodeEntry_quant {w : Word} (hopc : opcField w = 0x21) : opcodeEntry w = some (0x000000FF, .quant) := by
  rw [opcodeEntry, hopc]
  rfl

theorem opcodeEntry_dequant {w : Word} (hopc : opcField w = 0x22) : opcodeEntry w = some (0x000000FF, .dequant) := by
  rw [opcodeEntry, hopc]
  rfl

theorem opcodeEntry_compand {w : Word} (hopc : opcField w = 0x23) : opcodeEntry w = some (0x000000FF, .compand) := by
  rw [opcodeEntry, hopc]
  rfl

theorem opcodeEntry_expand {w : Word} (hopc : opcField w = 0x24) : opcodeEntry w = some (0x000000FF, .expand) := by
  rw [opcodeEntry, hopc]
  rfl

theorem opcodeEntry_sConfig {w : Word} (hopc : opcField w = 0x28) : opcodeEntry w = some (0x000000FF, .sConfig) := by
  rw [opcodeEntry, hopc]
  rfl

theorem opcodeEntry_scale {w : Word} (hopc : opcField w = 0x29) : opcodeEntry w = some (0x000000FF, .scale) := by
  rw [opcodeEntry, hopc]
  rfl

/-- A one-source element-wise command that tests its regions and else completes (R200): two exclusive ends. -/
theorem ends_of_regions {i : Instr} {s : State} {f : State → Nat → Elem} {post : State → Prop}
    (hexec : exec i s = if !s.unaryRegionsOk then fail .addrRange s else finish (elementWise f s))
    (hpost : post (elementWise f s).complete) :
    (¬UnaryPasses s → EndsWith 0x06 i s) ∧ (UnaryPasses s → ∃ t, exec i s = .next t ∧ post t) :=
  ⟨fun hfails => endsWith_of_check hexec (s.not_unaryRegionsOk_iff.mpr hfails),
    fun hpasses => ⟨_, exec_of_check_passed hexec s.not_unaryRegionsOk_iff hpasses, hpost⟩⟩

/-- A one-source element-wise command that needs a valid configuration (R202, R203, R217): the flag is tested before the
regions. -/
theorem ends_of_valid_then_regions {i : Instr} {s : State} {valid : Bool} {f : State → Nat → Elem}
    {post : State → Prop}
    (hexec : exec i s = if !valid then fail .notConfigured s else
      if !s.unaryRegionsOk then fail .addrRange s else finish (elementWise f s))
    (hpost : post (elementWise f s).complete) :
    (valid = false → EndsWith 0x04 i s) ∧ (valid = true → ¬UnaryPasses s → EndsWith 0x06 i s) ∧
      (valid = true → UnaryPasses s → ∃ t, exec i s = .next t ∧ post t) := by
  cases valid
  case false => exact ⟨fun _ => endsWith_of_check hexec rfl, by simp, by simp⟩
  case true =>
    obtain ⟨hfails, hpasses⟩ := ends_of_regions hexec hpost
    exact ⟨by simp, fun _ => hfails, fun _ => hpasses⟩

/-- Elements that raise no flag leave their words and a completion without SAT or DIVZ. -/
theorem ElementsWritten.of_unflagged {w : Nat → Word} {s t : State}
    (h : ElementsWritten (fun i => { word := w i, sat := false, divz := false }) s t) :
    Completed s t False False ∧ SameRegs s t ∧ RamsSameBut (wordsOf .dmem s.dst s.count) s t ∧
      ∀ i < s.count, t.dmemWord (s.dst + i) = w i := by
  obtain ⟨hcompleted, hregs, hrams, hvalues⟩ := h
  refine ⟨?_, hregs, hrams, fun i hi => BitVec.eq_of_toInt_eq (hvalues i hi)⟩
  simpa only [Bool.false_eq_true, and_false, exists_false] using hcompleted

end Sys2Proof.Machine
end

section
/-! PROOF. The element-wise commands QUANT, DEQUANT and SCALE (R202, R203, R217) under a valid configuration, which no
element changes. -/

namespace Sys2Proof.Machine

theorem quantElem_elementLoop {s : State} {i : Nat} (hi : i < s.count) :
    quantElem (elementLoop quantElem s.dst i 0 s) i =
      { word := bits32 (quantIndex s.quant (sext (readBy s (elementWise quantElem s) i (s.src0 + i))))
        sat := false, divz := false } := by
  rw [quantElem, elementLoop_src0, elementLoop_dmemInt _ hi, elementLoop_quant]

/-- Settles O26: two checks, then R202's clamped index for each element, which raises no flag. -/
theorem quantWritesIndices : Obligations.QuantWritesIndices := by
  refine ⟨reservedFieldRefused_of_entry fun _ hopc => ⟨_, opcodeEntry_quant hopc⟩, fun s => ?_⟩
  refine ends_of_valid_then_regions (f := quantElem) rfl ?_
  exact (elementWise_elementsWritten fun _ hi => quantElem_elementLoop hi).of_unflagged

/-- A symbol input of element i is the word of R125's element order. -/
theorem elementLoop_dmemNat (f : State → Nat → Elem) {s : State} {i : Nat} (hi : i < s.count) (x : Nat) :
    (elementLoop f s.dst i 0 s).dmemNat x = zext (readBy s (elementWise f s) i x) :=
  congrArg zext (elementLoop_dmemWord_read f s.dst s.count s i x hi)

theorem dequantElem_elementLoop {s : State} {i : Nat} (hi : i < s.count) :
    dequantElem (elementLoop dequantElem s.dst i 0 s) i =
      Elem.saturated (dequantValue s.quant (zext (readBy s (elementWise dequantElem s) i (s.src0 + i)))) := by
  rw [dequantElem, elementLoop_src0, elementLoop_dmemNat _ hi, elementLoop_quant]

/-- Settles O27: two checks, then the SAT32 of R203's value for each index, bounded or not. -/
theorem dequantWritesValues : Obligations.DequantWritesValues := by
  refine ⟨reservedFieldRefused_of_entry fun _ hopc => ⟨_, opcodeEntry_dequant hopc⟩, fun s => ?_⟩
  refine ends_of_valid_then_regions (f := dequantElem) rfl ?_
  exact (elementWise_elementsWritten fun _ hi => dequantElem_elementLoop hi).of_saturated

theorem scaleElem_elementLoop {s : State} {i : Nat} (hi : i < s.count) :
    scaleElem (elementLoop scaleElem s.dst i 0 s) i =
      Elem.saturated (scaleValue s.scl (sext (readBy s (elementWise scaleElem s) i (s.src0 + i)))) := by
  rw [scaleElem, elementLoop_src0, elementLoop_dmemInt _ hi, elementLoop_scl]

/-- Settles O31: two checks, then the SAT32 of R217's remap for each element. -/
theorem scaleWritesRemap : Obligations.ScaleWritesRemap := by
  refine ⟨reservedFieldRefused_of_entry fun _ hopc => ⟨_, opcodeEntry_scale hopc⟩, fun s => ?_⟩
  refine ends_of_valid_then_regions (f := scaleElem) rfl ?_
  exact (elementWise_elementsWritten fun _ hi => scaleElem_elementLoop hi).of_saturated

end Sys2Proof.Machine
end

section
/-! PROOF. The compander COMPAND and EXPAND (R210 to R212): the model's table value is R210's formula, and the tables
lie in RAMs that the element loop does not write. -/

namespace Sys2Proof.Machine

/-- R210's shift and mask of a magnitude are the model's quotient and remainder. -/
theorem lutValue_eq_lutFormula (lutLog2 : Nat) (t : Nat → Int) (x : Int) :
    lutValue lutLog2 t x = lutFormula lutLog2 t x := by
  have hlimit : (if x.natAbs > 65536 then 65536 else x.natAbs) = min x.natAbs 65536 := by
    split <;> omega
  simp only [lutValue, lutMagnitude, lutFormula, hlimit, Nat.shiftRight_eq_div_pow, Nat.and_two_pow_sub_one_eq_mod]

theorem lutElem_sat_iff (lutLog2 : Nat) (t : Nat → Int) (x : Int) :
    (lutElem lutLog2 t x).sat = true ↔ 65536 < x.natAbs ∨ clips32 (lutFormula lutLog2 t x) = true := by
  rw [lutElem, lutValue_eq_lutFormula, Bool.or_eq_true, decide_eq_true_iff]

theorem lutElem_divz (lutLog2 : Nat) (t : Nat → Int) (x : Int) : (lutElem lutLog2 t x).divz = false := rfl

theorem sext_lutElem_word (lutLog2 : Nat) (t : Nat → Int) (x : Int) :
    sext (lutElem lutLog2 t x).word = sat32 (lutFormula lutLog2 t x) := by
  rw [← lutValue_eq_lutFormula]
  exact sext_bits32_sat32 _

/-- Elements that interpolate in a table raise SAT for a magnitude above 1.0 or a clipped result (R210). -/
theorem ElementsWritten.of_lut {lutLog2 : Nat} {T : Nat → Int} {x : Nat → Int} {s t : State}
    (h : ElementsWritten (fun i => lutElem lutLog2 T (x i)) s t) :
    Completed s t (∃ i < s.count, 65536 < (x i).natAbs ∨ clips32 (lutFormula lutLog2 T (x i)) = true) False ∧
      SameRegs s t ∧ RamsSameBut (wordsOf .dmem s.dst s.count) s t ∧
      ∀ i < s.count, t.dmemInt (s.dst + i) = sat32 (lutFormula lutLog2 T (x i)) := by
  simpa only [ElementsWritten, lutElem_sat_iff, lutElem_divz, sext_lutElem_word, Bool.false_eq_true, and_false,
    exists_false] using h

/-- The element loop writes DMEM alone. -/
theorem elementLoop_ramWord_other (f : State → Nat → Elem) (dst k i : Nat) (s : State) {r : Config.RamId}
    (hr : r ≠ .dmem) (x : Nat) : (elementLoop f dst k i s).ramWord r x = s.ramWord r x := by
  have hbyte (y : Nat) : (elementLoop f dst k i s).ramByte r y = s.ramByte r y :=
    elementLoop_ramByte f dst k i s r y fun hdest => hr hdest.1
  simp only [State.ramWord, hbyte]

theorem elementLoop_clutWord (f : State → Nat → Elem) (dst k i : Nat) (s : State) (j : Nat) :
    (elementLoop f dst k i s).clutWord j = s.clutWord j := elementLoop_ramWord_other f dst k i s (by decide) _

theorem elementLoop_elutWord (f : State → Nat → Elem) (dst k i : Nat) (s : State) (j : Nat) :
    (elementLoop f dst k i s).elutWord j = s.elutWord j := elementLoop_ramWord_other f dst k i s (by decide) _

theorem compandElem_elementLoop {s : State} {i : Nat} (hi : i < s.count) :
    compandElem (elementLoop compandElem s.dst i 0 s) i =
      lutElem s.cfg.lutLog2 (fun j => sext (s.clutWord j))
        (sext (readBy s (elementWise compandElem s) i (s.src0 + i))) := by
  simp only [compandElem, elementLoop_cfg, elementLoop_clutWord, elementLoop_src0, elementLoop_dmemInt _ hi]

/-- Settles O28: the region test, then R210 in CLUT for each element. -/
theorem compandInterpolatesClut : Obligations.CompandInterpolatesClut := by
  refine ⟨reservedFieldRefused_of_entry fun _ hopc => ⟨_, opcodeEntry_compand hopc⟩, fun s => ?_⟩
  refine ends_of_regions (f := compandElem) rfl ?_
  exact (elementWise_elementsWritten fun _ hi => compandElem_elementLoop hi).of_lut

theorem expandElem_elementLoop {s : State} {i : Nat} (hi : i < s.count) :
    expandElem (elementLoop expandElem s.dst i 0 s) i =
      lutElem s.cfg.lutLog2 (fun j => sext (s.elutWord j))
        (sext (readBy s (elementWise expandElem s) i (s.src0 + i))) := by
  simp only [expandElem, elementLoop_cfg, elementLoop_elutWord, elementLoop_src0, elementLoop_dmemInt _ hi]

/-- Settles O29: the region test, then R210 in ELUT for each element. -/
theorem expandInterpolatesElut : Obligations.ExpandInterpolatesElut := by
  refine ⟨reservedFieldRefused_of_entry fun _ hopc => ⟨_, opcodeEntry_expand hopc⟩, fun s => ?_⟩
  refine ends_of_regions (f := expandElem) rfl ?_
  exact (elementWise_elementsWritten fun _ hi => expandElem_elementLoop hi).of_lut

end Sys2Proof.Machine
end

section
/-! PROOF. The configuration commands Q_CONFIG and S_CONFIG (R201, R216): the derived factors fit 64 bits, since a
rounded quotient is no larger than its numerator. -/

namespace Sys2Proof.Machine

theorem rne_neg_neg (p : Int) {q : Int} (hq : q ≠ 0) : rne (-p) (-q) = rne p q :=
  (rne_eq_iff (neg_ne_zero.mpr hq)).mpr (isNearestEven_neg_neg.mpr (rne_isNearestEven p hq))

/-- A quotient by an integer other than 0 is no larger than its numerator, an integer, and so is its rounding. -/
theorem abs_rne_le_abs (p : Int) {q : Int} (hq : q ≠ 0) : |rne p q| ≤ |p| := by
  have hpos {p q : Int} (hq : 0 < q) : |rne p q| ≤ |p| :=
    abs_rne_le hq (le_mul_of_one_le_right (abs_nonneg p) hq)
  obtain hneg | hq0 := hq.lt_or_gt
  · rw [← rne_neg_neg p hq, ← abs_neg p]
    exact hpos (Int.neg_pos_of_neg hneg)
  · exact hpos hq0

theorem rne_nonneg {p q : Int} (hp : 0 ≤ p) (hq : 0 < q) : 0 ≤ rne p q := by
  obtain ⟨hdist, -⟩ := rne_isNearestEven p hq.ne'
  rw [abs_of_pos hq, abs_le] at hdist
  by_contra hlt
  have : q * rne p q ≤ q * -1 := mul_le_mul_of_nonneg_left (by omega) hq.le
  linarith

/-- The unsigned 64-bit register of a factor holds it exactly (R34). -/
theorem zext_bits64_rne {p q : Int} (hp : 0 ≤ p) (hlt : p < 2 ^ 64) (hq : 0 < q) :
    (zext (bits64 (rne p q)) : Int) = rne p q := by
  have hnonneg := rne_nonneg hp hq
  have hle := abs_rne_le_abs p hq.ne'
  rw [abs_of_nonneg hnonneg, abs_of_nonneg hp] at hle
  rw [zext, bits64, BitVec.toNat_ofInt, Int.toNat_of_nonneg (Int.emod_nonneg _ (by norm_num)), Nat.cast_pow,
    Nat.cast_ofNat, Int.emod_eq_of_lt hnonneg (hle.trans_lt hlt)]

/-- The signed 64-bit register of a factor holds it exactly (R36). -/
theorem sext_bits64_rne {p q : Int} (hlt : |p| < 2 ^ 63) (hq : q ≠ 0) : sext (bits64 (rne p q)) = rne p q := by
  have hrange := abs_lt.mp ((abs_rne_le_abs p hq).trans_lt hlt)
  rw [sext, bits64, BitVec.toInt_ofInt]
  apply Int.bmod_eq_of_le <;> norm_num <;> omega

/-! ### Q_CONFIG -/

/-- Q_CONFIG's effect when both checks pass (R201). -/
def State.withQuantFactors (s : State) : State :=
  let width := sext s.quant.qMax - sext s.quant.qMin
  let top := (zext s.quant.qLevels : Int) - 1
  { s with quant := { s.quant with
      qRcp := bits64 (rne (top * 2 ^ 32) width), qStep := bits64 (rne (width * 2 ^ 32) top), qValid := true } }

theorem exec_qConfig (s : State) :
    exec .qConfig s =
      if !(2 ≤ zext s.quant.qLevels && zext s.quant.qLevels ≤ 65536) then fail .badParam s
      else if !(sext s.quant.qMin < sext s.quant.qMax) then fail .invalidRange s
      else finish s.withQuantFactors := rfl

/-- L - 1 is in 1 to 65535 and the width in 1 to 2^32 - 1, so both factors lie in 0 to 2^64 - 1. -/
theorem State.withQuantFactors_factors {s : State}
    (hlevels : 2 ≤ zext s.quant.qLevels ∧ zext s.quant.qLevels ≤ 65536)
    (hlt : sext s.quant.qMin < sext s.quant.qMax) :
    (zext s.withQuantFactors.quant.qRcp : Int) =
        rne (((zext s.quant.qLevels : Int) - 1) * 2 ^ 32) (sext s.quant.qMax - sext s.quant.qMin) ∧
      (zext s.withQuantFactors.quant.qStep : Int) =
        rne ((sext s.quant.qMax - sext s.quant.qMin) * 2 ^ 32) ((zext s.quant.qLevels : Int) - 1) := by
  have hmin := sext_word_range s.quant.qMin
  have hmax := sext_word_range s.quant.qMax
  exact ⟨zext_bits64_rne (by omega) (by omega) (by omega), zext_bits64_rne (by omega) (by omega) (by omega)⟩

/-- Settles O25: two checks, then both factors are written exactly and nothing else is. -/
theorem qConfigDerivesFactors : Obligations.QConfigDerivesFactors := by
  refine ⟨reservedFieldRefused_of_entry fun _ hopc => ⟨_, opcodeEntry_qConfig hopc⟩, fun s => ?_⟩
  intro mn mx L
  have hlevels : (!(2 ≤ L && L ≤ 65536)) = true ↔ ¬(2 ≤ L ∧ L ≤ 65536) := by simp [-not_and, not_and_or]
  have hrange : (!decide (mn < mx)) = true ↔ ¬mn < mx := by simp
  have hsecond := exec_of_check_passed (exec_qConfig s) hlevels
  refine ⟨fun hillegal => endsWith_of_check (exec_qConfig s) (hlevels.mpr hillegal),
    fun hlegal hempty => endsWith_of_check (hsecond hlegal) (hrange.mpr hempty),
    fun hlegal hlt => ⟨_, exec_of_check_passed (hsecond hlegal) hrange hlt, completed_of_same_flags rfl,
      sameRegs_update s _ _ _, fun _ _ _ => rfl, rfl, rfl, rfl, ?_⟩⟩
  obtain ⟨hrcp, hstep⟩ := State.withQuantFactors_factors hlegal hlt
  exact ⟨hrcp, hstep, rfl⟩

/-! ### S_CONFIG -/

/-- S_CONFIG's effect when its check passes (R216). -/
def State.withScaleFactor (s : State) : State :=
  { s with scl := { s.scl with
      k := bits64 (rne ((sext s.scl.newMax - sext s.scl.newMin) * 2 ^ 31) (sext s.scl.oldMax - sext s.scl.oldMin))
      sValid := true } }

theorem exec_sConfig (s : State) :
    exec .sConfig s =
      if sext s.scl.oldMax = sext s.scl.oldMin then fail .invalidRange s else finish s.withScaleFactor := rfl

/-- The new width is below 2^32 in size, so the factor lies within 2^63 whatever its sign. -/
theorem State.sext_withScaleFactor_k {s : State} (hne : sext s.scl.oldMax ≠ sext s.scl.oldMin) :
    sext s.withScaleFactor.scl.k =
      rne ((sext s.scl.newMax - sext s.scl.newMin) * 2 ^ 31) (sext s.scl.oldMax - sext s.scl.oldMin) := by
  have hmin := sext_word_range s.scl.newMin
  have hmax := sext_word_range s.scl.newMax
  exact sext_bits64_rne (abs_lt.mpr (by omega)) (sub_ne_zero.mpr hne)

/-- Settles O30: one check, then the factor is written exactly and nothing else is. -/
theorem sConfigDerivesFactor : Obligations.SConfigDerivesFactor := by
  refine ⟨reservedFieldRefused_of_entry fun _ hopc => ⟨_, opcodeEntry_sConfig hopc⟩, fun s => ?_⟩
  refine ⟨endsWith_of_check (exec_sConfig s), fun hne => ⟨_, (exec_sConfig s).trans (if_neg hne),
    completed_of_same_flags rfl, sameRegs_update s _ _ _, fun _ _ _ => rfl, rfl, rfl, rfl, rfl, ?_⟩⟩
  exact ⟨State.sext_withScaleFactor_k hne, rfl⟩

end Sys2Proof.Machine
end

section
/-! PROOF. What EC_ENCODE and EC_DECODE share (44_entropy.md R232 to R234): their opcodes' used bits and the three checks
in order, the profile, the two regions, their overlap. -/

namespace Sys2Proof.Machine

theorem opcodeEntry_ecEncode {w : Word} (hopc : opcField w = 0x30) :
    opcodeEntry w = some (0x000F00FF, .ecEncode (profField w)) := by
  rw [opcodeEntry, hopc]
  rfl

theorem opcodeEntry_ecDecode {w : Word} (hopc : opcField w = 0x31) :
    opcodeEntry w = some (0x000F00FF, .ecDecode (profField w)) := by
  rw [opcodeEntry, hopc]
  rfl

theorem State.registered_iff (s : State) (p : Nat) : s.registered p = true ↔ Registered s p := by
  simp [State.registered, Registered]

theorem State.regionsOk_iff (s : State) (b1 l1 b2 l2 : Nat) :
    (s.regionOk b1 l1 && s.regionOk b2 l2) = true ↔ Passes s b1 l1 ∧ Passes s b2 l2 := by
  rw [Bool.and_eq_true, s.regionOk_iff, s.regionOk_iff]

theorem overlap_iff (b1 l1 b2 l2 : Nat) : overlap b1 l1 b2 l2 = true ↔ Overlaps b1 l1 b2 l2 := by
  simp [overlap, Overlaps, and_assoc]

/-- A command that tests its profile, its regions and their overlap, and else goes on to `o` (R233, R234): the ends are
exclusive and in this order. -/
theorem ends_of_entropy_checks {i : Instr} {s : State} {p b1 l1 b2 l2 : Nat} {o : Host.Outcome State Fault Refusal}
    (hexec : exec i s =
      if !s.registered p then fail .unknownProfile s
      else if !(s.regionOk b1 l1 && s.regionOk b2 l2) then fail .addrRange s
      else if overlap b1 l1 b2 l2 then fail .overlap s
      else o) :
    (¬Registered s p → EndsWith 0x05 i s) ∧
    (Registered s p → ¬(Passes s b1 l1 ∧ Passes s b2 l2) → EndsWith 0x06 i s) ∧
    (Registered s p → Passes s b1 l1 ∧ Passes s b2 l2 → Overlaps b1 l1 b2 l2 → EndsWith 0x07 i s) ∧
    (Registered s p → Passes s b1 l1 ∧ Passes s b2 l2 → ¬Overlaps b1 l1 b2 l2 → exec i s = o) := by
  have hprofile : (!s.registered p) = true ↔ ¬Registered s p := by
    rw [Bool.not_eq_true', ← Bool.not_eq_true, s.registered_iff]
  have hregions : (!(s.regionOk b1 l1 && s.regionOk b2 l2)) = true ↔ ¬(Passes s b1 l1 ∧ Passes s b2 l2) := by
    rw [Bool.not_eq_true', ← Bool.not_eq_true, s.regionsOk_iff]
  have hoverlap : overlap b1 l1 b2 l2 = true ↔ ¬¬Overlaps b1 l1 b2 l2 := by rw [overlap_iff, not_not]
  refine ⟨fun hfails => endsWith_of_check hexec (hprofile.mpr hfails), fun hreg hfails => ?_,
    fun hreg hpasses hover => ?_, fun hreg hpasses hover => ?_⟩ <;>
    have hexec := exec_of_check_passed hexec hprofile hreg
  · exact endsWith_of_check hexec (hregions.mpr hfails)
  · exact endsWith_of_check (exec_of_check_passed hexec hregions hpasses) ((overlap_iff ..).mpr hover)
  · exact exec_of_check_passed (exec_of_check_passed hexec hregions hpasses) hoverlap hover

end Sys2Proof.Machine
end

section
/-! PROOF. The coded stream of EC_ENCODE (R231, R233): its length, where the code word of a symbol stands in it, and its
bits as DMEM holds them after the write. -/

namespace Sys2Proof.Machine

theorem State.encodable_iff (s : State) (p t : Nat) :
    s.encodable p t = true ↔ t < s.cfg.nsym ∧ s.codeLen p t ≠ 0 := by
  simp [State.encodable]

/-! ### Pass 1 -/

theorem State.codedLength_of_encodable {s : State} {p k i : Nat}
    (h : ∀ j < k, s.encodable p (symbolAt s (i + j)) = true) :
    s.codedLength p k i = some (∑ j ∈ Finset.range k, s.codeLen p (symbolAt s (i + j))) := by
  induction k generalizing i with
  | zero => rfl
  | succ k ih =>
    have hrest : ∀ j < k, s.encodable p (symbolAt s (i + 1 + j)) = true := fun j hj => by
      rw [Nat.add_assoc, Nat.add_comm 1 j]
      exact h (j + 1) (Nat.succ_lt_succ hj)
    have hfirst : s.encodable p (s.dmemNat (s.src0 + i)) = true := h 0 k.succ_pos
    rw [State.codedLength, if_pos hfirst, ih hrest, Option.map_some, Finset.sum_range_succ', Nat.add_comm]
    simp only [Nat.add_assoc, Nat.add_comm 1, Nat.add_zero, symbolAt]

theorem State.codedLength_of_not_encodable {s : State} {p k i j : Nat} (hj : j < k)
    (h : ¬s.encodable p (symbolAt s (i + j)) = true) : s.codedLength p k i = none := by
  induction k generalizing i j with
  | zero => omega
  | succ k ih =>
    rw [State.codedLength]
    cases j with
    | zero => exact if_neg h
    | succ j =>
      have hrest : s.codedLength p k (i + 1) = none := ih (Nat.lt_of_succ_lt_succ hj) (by rwa [Nat.add_right_comm])
      rw [hrest, Option.map_none, ite_self]

/-- Pass 1 finds the coded length when every symbol has a code. -/
theorem State.codedLength_eq_bitsBefore {s : State} {p n : Nat}
    (h : ∀ i < n, symbolAt s i < s.cfg.nsym ∧ s.codeLen p (symbolAt s i) ≠ 0) :
    s.codedLength p n 0 = some (bitsBefore s p n) := by
  have hlength := State.codedLength_of_encodable (i := 0) fun j hj => by
    rw [Nat.zero_add]
    exact (s.encodable_iff p _).mpr (h j hj)
  simpa only [bitsBefore, Nat.zero_add] using hlength

/-- Pass 1 fails when some symbol has none. -/
theorem State.codedLength_eq_none {s : State} {p n : Nat}
    (h : ¬∀ i < n, symbolAt s i < s.cfg.nsym ∧ s.codeLen p (symbolAt s i) ≠ 0) : s.codedLength p n 0 = none := by
  simp only [not_forall, exists_prop] at h
  obtain ⟨i, hi, hnocode⟩ := h
  exact State.codedLength_of_not_encodable hi (by rwa [Nat.zero_add, s.encodable_iff])

/-! ### The bits -/

theorem bitsMsbFirst_length (v l : Nat) : (bitsMsbFirst v l).length = l := by
  induction l with
  | zero => rfl
  | succ l ih => rw [bitsMsbFirst, List.length_cons, ih]

theorem bitsMsbFirst_getD (v : Nat) {l b : Nat} (hb : b < l) :
    (bitsMsbFirst v l).getD b false = v.testBit (l - 1 - b) := by
  induction l generalizing b with
  | zero => omega
  | succ l ih =>
    cases b with
    | zero => rfl
    | succ b =>
      rw [bitsMsbFirst, List.getD_cons_succ, ih (Nat.lt_of_succ_lt_succ hb)]
      congr 1
      omega

theorem State.codeWord_length (s : State) (p t : Nat) : (s.codeWord p t).length = s.codeLen p t :=
  bitsMsbFirst_length _ _

theorem State.codedBits_succ (s : State) (p n : Nat) :
    s.codedBits p (n + 1) = s.codedBits p n ++ s.codeWord p (symbolAt s n) := by
  simp [State.codedBits, List.range_succ, symbolAt]

theorem bitsBefore_succ (s : State) (p i : Nat) :
    bitsBefore s p (i + 1) = bitsBefore s p i + s.codeLen p (symbolAt s i) := Finset.sum_range_succ _ _

theorem State.codedBits_length (s : State) (p n : Nat) : (s.codedBits p n).length = bitsBefore s p n := by
  induction n with
  | zero => rfl
  | succ n ih => rw [s.codedBits_succ, List.length_append, ih, s.codeWord_length, bitsBefore_succ]

theorem bitsBefore_mono (s : State) (p : Nat) {i n : Nat} (h : i ≤ n) : bitsBefore s p i ≤ bitsBefore s p n :=
  Finset.sum_le_sum_of_subset (Finset.range_mono h)

/-- The code word of symbol i stands after those of the symbols before it. -/
theorem State.codedBits_getD (s : State) (p : Nat) {n i b : Nat} (hi : i < n)
    (hb : b < s.codeLen p (symbolAt s i)) :
    (s.codedBits p n).getD (bitsBefore s p i + b) false
      = (s.codeValue p (symbolAt s i)).testBit (s.codeLen p (symbolAt s i) - 1 - b) := by
  induction n with
  | zero => omega
  | succ n ih =>
    rw [s.codedBits_succ]
    rcases Nat.lt_succ_iff_lt_or_eq.mp hi with hlt | rfl
    · have hinside : bitsBefore s p i + b < (s.codedBits p n).length := by
        have hmono := bitsBefore_mono s p hlt
        rw [bitsBefore_succ] at hmono
        rw [s.codedBits_length]
        omega
      rw [List.getD_append _ _ _ _ hinside, ih hlt]
    · rw [List.getD_append_right _ _ _ _ (by rw [s.codedBits_length]; omega), s.codedBits_length,
        Nat.add_sub_cancel_left]
      exact bitsMsbFirst_getD _ hb

/-! ### The words -/

theorem streamByte_getLsbD (bits : List Bool) (j : Nat) {r : Nat} (hr : r < 8) :
    (streamByte bits j).getLsbD (7 - r) = bits.getD (8 * j + r) false := by
  interval_cases r <;> simp only [streamByte, BitVec.getLsbD_append] <;> simp

theorem streamWord_getLsbD (bits : List Bool) (k : Nat) {j i : Nat} (hj : j < 4) (hi : i < 8) :
    (streamWord bits k).getLsbD (8 * j + i) = (streamByte bits (4 * k + j)).getLsbD i := by
  simp only [streamWord, BitVec.getLsbD_append]
  interval_cases j <;> grind

theorem streamWords_length (bits : List Bool) : (streamWords bits).length = ((bits.length + 7) / 8 + 3) / 4 := by
  rw [streamWords, List.length_map, List.length_range]
  rfl

/-- Bit q of the stream as DMEM holds it; behind the last coded bit it is 0. -/
theorem State.streamBit_storeWords (s : State) (d : Nat) (bits : List Bool) {q : Nat}
    (hq : q < 32 * (streamWords bits).length) :
    (s.storeWords .dmem d (streamWords bits)).streamBit d q = bits.getD q false := by
  have hword : q / 8 / 4 < (streamWords bits).length := by omega
  rw [State.streamBit, State.dmemWord_storeWords, dif_pos ⟨by omega, by omega⟩]
  simp only [Nat.add_sub_cancel_left, streamWords, List.getElem_map, List.getElem_range]
  rw [streamWord_getLsbD _ _ (by omega) (by omega), streamByte_getLsbD _ _ (by omega)]
  congr 1
  omega

end Sys2Proof.Machine
end

section
/-! PROOF. EC_ENCODE (R233). -/

namespace Sys2Proof.Machine

/-- Pass 2 of EC_ENCODE (R233) for B coded bits: the stream at DST, and the results. -/
def State.encoded (s : State) (p : Nat) : State :=
  (s.storeWords .dmem s.dst (streamWords (s.codedBits p s.gridSize))).setResults
    (ceilDiv (bitsBefore s p s.gridSize) 8) (bitsBefore s p s.gridSize)

theorem State.encoded_frame (s : State) (p : Nat) :
    RamsSameBut (wordsOf .dmem s.dst (((bitsBefore s p s.gridSize + 7) / 8 + 3) / 4)) s (s.encoded p) := by
  have hframe := s.storeWords_frame .dmem s.dst (streamWords (s.codedBits p s.gridSize))
  rw [streamWords_length, s.codedBits_length] at hframe
  exact hframe

theorem State.encoded_streamBit (s : State) (p : Nat) {q : Nat}
    (hq : q < 32 * (((bitsBefore s p s.gridSize + 7) / 8 + 3) / 4)) :
    (s.encoded p).streamBit s.dst q = (s.codedBits p s.gridSize).getD q false := by
  rw [← s.codedBits_length, ← streamWords_length] at hq
  exact s.streamBit_storeWords s.dst _ hq

/-- Settles O40: the three shared checks, then pass 1 finds a symbol without a code or the length of `codedBits`, whose
bits the stream holds. -/
theorem ecEncodeWritesStream : Obligations.EcEncodeWritesStream := by
  refine ⟨reservedFieldRefused_of_entry fun _ hopc => ⟨_, opcodeEntry_ecEncode hopc⟩, fun p s => ?_⟩
  obtain ⟨hprofile, hregions, hoverlap, hpassed⟩ := ends_of_entropy_checks (i := .ecEncode p) (s := s) rfl
  refine ⟨hprofile, hregions, hoverlap, fun hreg hpasses hover hnocode => ?_,
    fun hreg hpasses hover hencodable hsmall => ?_, fun hreg hpasses hover hencodable hfits => ?_⟩ <;>
    have hexec := hpassed hreg hpasses hover
  · rw [State.codedLength_eq_none hnocode] at hexec
    exact hexec.trans (fail_eq_errorState .unencodable s)
  · rw [State.codedLength_eq_bitsBefore hencodable] at hexec
    exact endsWith_of_check (c := .capacity) hexec hsmall
  · rw [State.codedLength_eq_bitsBefore hencodable] at hexec
    refine ⟨(s.encoded p).complete, hexec.trans (if_neg (Nat.not_lt.mpr hfits)), completed_of_same_flags rfl,
      sameRegs_update s _ _ _, s.encoded_frame p, rfl, rfl, rfl, fun i hi b hb => ?_, fun q hlo hhi => ?_⟩
    · have hinside := bitsBefore_mono s p hi
      rw [Nat.succ_eq_add_one, bitsBefore_succ] at hinside
      exact (s.encoded_streamBit p (by omega)).trans (s.codedBits_getD p hi hb)
    · exact (s.encoded_streamBit p hhi).trans (List.getD_eq_default _ _ (by rwa [s.codedBits_length]))

end Sys2Proof.Machine
end

section
/-! PROOF. Decoding one symbol (R234): the search for a code is the least symbol whose code it is, and the loop over the
bits ends in one of three ways. -/

namespace Sys2Proof.Machine

theorem State.matchCode_eq_some_iff (s : State) (p l v t : Nat) :
    s.matchCode p l v = some t ↔ CodeIs s p l v t ∧ ∀ t' < t, ¬CodeIs s p l v t' := by
  simp only [State.matchCode, List.find?_range_eq_some, List.mem_range, CodeIs]
  grind

theorem State.matchCode_eq_none_iff (s : State) (p l v : Nat) :
    s.matchCode p l v = none ↔ ∀ t, ¬CodeIs s p l v t := by
  simp only [State.matchCode, List.find?_range_eq_none, CodeIs]
  grind

theorem NoMatch.mono {s : State} {p pos k l : Nat} (h : NoMatch s p pos l) (hkl : k ≤ l) : NoMatch s p pos k :=
  fun j t hpos hj => h j t hpos (hj.trans hkl)

/-- The loop at stream bit `pos + l`, when the `l` bits before it belong to the symbol. -/
theorem State.decodeSymbol_succ (s : State) (p fuel l pos : Nat) :
    s.decodeSymbol p (fuel + 1) l (bitsValue s s.src0 pos l) (pos + l) =
      if 8 * s.count ≤ pos + l then .truncated (pos + l)
      else match s.matchCode p (l + 1) (bitsValue s s.src0 pos (l + 1)) with
        | some t => .found t (pos + (l + 1))
        | none => s.decodeSymbol p fuel (l + 1) (bitsValue s s.src0 pos (l + 1)) (pos + (l + 1)) := by
  rw [State.decodeSymbol]
  rfl

/-- Bits that match no code are read and kept. -/
theorem State.decodeSymbol_of_noMatch {s : State} {p l pos : Nat} (fuel : Nat) (hbits : pos + l ≤ 8 * s.count)
    (hno : NoMatch s p pos l) :
    s.decodeSymbol p (l + fuel) 0 0 pos = s.decodeSymbol p fuel l (bitsValue s s.src0 pos l) (pos + l) := by
  induction l generalizing fuel with
  | zero => rw [Nat.zero_add]; rfl
  | succ l ih =>
    have hnone : s.matchCode p (l + 1) (bitsValue s s.src0 pos (l + 1)) = none :=
      (s.matchCode_eq_none_iff ..).mpr fun t => hno (l + 1) t l.succ_pos le_rfl
    rw [Nat.succ_add_eq_add_succ, ih (fuel + 1) (by omega) (hno.mono l.le_succ), s.decodeSymbol_succ,
      if_neg (by omega), hnone]

theorem State.decodeSymbol_of_decodesTo {s : State} {p pos t pos' : Nat} (h : DecodesTo s p pos t pos') :
    s.decodeSymbol p 24 0 0 pos = .found t pos' := by
  obtain ⟨l, hpos, hle, rfl, hbits, hno, hcode, hleast⟩ := h
  obtain ⟨l, rfl⟩ := Nat.exists_eq_add_of_le' hpos
  obtain ⟨fuel, hfuel⟩ := Nat.exists_eq_add_of_le hle
  have hsome : s.matchCode p (l + 1) (bitsValue s s.src0 pos (l + 1)) = some t :=
    (s.matchCode_eq_some_iff ..).mpr ⟨hcode, hleast⟩
  rw [hfuel, Nat.succ_add_eq_add_succ, State.decodeSymbol_of_noMatch (l := l) _ (by omega) hno,
    s.decodeSymbol_succ, if_neg (by omega), hsome]

/-- The stream ends before the 24th bit. -/
theorem State.decodeSymbol_truncated {s : State} {p pos : Nat} (hle : pos ≤ 8 * s.count)
    (hshort : 8 * s.count < pos + 24) (hno : NoMatch s p pos (8 * s.count - pos)) :
    s.decodeSymbol p 24 0 0 pos = .truncated (8 * s.count) := by
  obtain ⟨l, hl⟩ := Nat.exists_eq_add_of_le hle
  obtain ⟨fuel, hfuel⟩ : ∃ fuel, 24 = l + (fuel + 1) := ⟨23 - l, by omega⟩
  rw [hl, Nat.add_sub_cancel_left] at hno
  rw [hfuel, State.decodeSymbol_of_noMatch _ hl.ge hno, s.decodeSymbol_succ, if_pos hl.le, hl]

theorem State.decodeSymbol_badCode {s : State} {p pos : Nat} (hbits : pos + 24 ≤ 8 * s.count)
    (hno : NoMatch s p pos 24) : s.decodeSymbol p 24 0 0 pos = .badCode (pos + 24) :=
  State.decodeSymbol_of_noMatch 0 hbits hno

end Sys2Proof.Machine
end

section
/-! PROOF. EC_DECODE (R234): the grid's symbols up to the first that does not decode, and the state they leave. -/

namespace Sys2Proof.Machine

/-- The symbols `front` decoded before an end. -/
def DecodeEnd.after (front : List Nat) (e : DecodeEnd) : DecodeEnd := { e with symbols := front ++ e.symbols }

theorem State.decodeGrid_succ_of_decodesTo {s : State} {p pos t pos' : Nat} (m : Nat)
    (h : DecodesTo s p pos t pos') : s.decodeGrid p (m + 1) pos = (s.decodeGrid p m pos').after [t] := by
  rw [State.decodeGrid, State.decodeSymbol_of_decodesTo h]
  rfl

/-- The first k symbols decode, m are left. -/
theorem State.decodeGrid_add {s : State} {p k : Nat} {pos sym : Nat → Nat} (m : Nat)
    (h : ∀ i < k, DecodesTo s p (pos i) (sym i) (pos (i + 1))) :
    s.decodeGrid p (k + m) (pos 0) = (s.decodeGrid p m (pos k)).after (vec k sym) := by
  induction k generalizing m with
  | zero => rw [Nat.zero_add]; rfl
  | succ k ih =>
    have hvec : vec (k + 1) sym = vec k sym ++ [sym k] := by simp [vec, List.range_succ]
    rw [Nat.succ_add_eq_add_succ, ih (m + 1) fun i hi => h i (hi.trans k.lt_succ_self),
      State.decodeGrid_succ_of_decodesTo m (h k k.lt_succ_self), hvec]
    simp [DecodeEnd.after]

theorem State.decodeGrid_of_all_decode {s : State} {p n : Nat} {pos sym : Nat → Nat}
    (h : ∀ i < n, DecodesTo s p (pos i) (sym i) (pos (i + 1))) :
    s.decodeGrid p n (pos 0) = ⟨vec n sym, pos n, none⟩ := by
  have hgrid := State.decodeGrid_add 0 h
  simpa [State.decodeGrid, DecodeEnd.after] using hgrid

/-- A decoded symbol ends inside the stream, so the next one starts there. -/
theorem pos_le_of_decodesTo {s : State} {p k : Nat} {pos sym : Nat → Nat} (hzero : pos 0 = 0)
    (h : ∀ i < k, DecodesTo s p (pos i) (sym i) (pos (i + 1))) : pos k ≤ 8 * s.count := by
  cases k with
  | zero => omega
  | succ k =>
    obtain ⟨_, _, _, _, hbits, _⟩ := h k k.lt_succ_self
    exact hbits

/-- A symbol that does not decode ends the grid, whatever is left of it. -/
theorem State.decodeGrid_of_failure {s : State} {p n k last : Nat} {pos sym : Nat → Nat} {c : ErrCode} (hk : k < n)
    (h : ∀ i < k, DecodesTo s p (pos i) (sym i) (pos (i + 1)))
    (hfails : ∀ m, s.decodeGrid p (m + 1) (pos k) = ⟨[], last, some c⟩) :
    s.decodeGrid p n (pos 0) = ⟨vec k sym, last, some c⟩ := by
  obtain ⟨m, rfl⟩ := Nat.exists_eq_add_of_lt hk
  rw [Nat.add_assoc, State.decodeGrid_add (m + 1) h, hfails m, DecodeEnd.after, List.append_nil]

theorem State.decodeGrid_truncated {s : State} {p pos : Nat} (hle : pos ≤ 8 * s.count)
    (hshort : 8 * s.count < pos + 24) (hno : NoMatch s p pos (8 * s.count - pos)) (m : Nat) :
    s.decodeGrid p (m + 1) pos = ⟨[], 8 * s.count, some .fmtTruncated⟩ := by
  rw [State.decodeGrid, State.decodeSymbol_truncated hle hshort hno]

theorem State.decodeGrid_badCode {s : State} {p pos : Nat} (hbits : pos + 24 ≤ 8 * s.count)
    (hno : NoMatch s p pos 24) (m : Nat) : s.decodeGrid p (m + 1) pos = ⟨[], pos + 24, some .fmtBadcode⟩ := by
  rw [State.decodeGrid, State.decodeSymbol_badCode hbits hno]

/-- The decoded symbols at DST and the results (R234). -/
def State.decoded (s : State) (symbols : List Nat) (pos : Nat) : State :=
  (s.storeWords .dmem s.dst (symbols.map (BitVec.ofNat 32))).setResults symbols.length pos

/-- The end of EC_DECODE once the checks have passed (R234): the symbols are written whether or not it is an error. -/
def DecodeEnd.outcome (s : State) (e : DecodeEnd) : Host.Outcome State Fault Refusal :=
  match e.error with
  | none => finish (s.decoded e.symbols e.pos)
  | some c => fail c (s.decoded e.symbols e.pos)

theorem State.dmemWord_storeWords_vec (s : State) (a : Nat) {n i : Nat} (f : Nat → Word) (hi : i < n) :
    (s.storeWords .dmem a (vec n f)).dmemWord (a + i) = f i := by
  rw [State.dmemWord_storeWords, dif_pos (by rw [vec_length]; omega), vec_getElem, Nat.add_sub_cancel_left]

/-- k symbols, `sym` of their index, are at DST, and RES0 to RES2 say so with the `pos` bits used (R234). -/
def WroteSymbols (s t : State) (k pos : Nat) (sym : Nat → Nat) : Prop :=
  SameRegs s { t with res := s.res, errinfo := s.errinfo } ∧ RamsSameBut (wordsOf .dmem s.dst k) s t ∧
  (∀ i < k, t.dmemWord (s.dst + i) = BitVec.ofNat 32 (sym i)) ∧
  t.res.res0 = BitVec.ofNat 32 k ∧ t.res.res1 = BitVec.ofNat 32 pos ∧ t.res.res2 = s.ops.rows

/-- What a completion or an error changes after the symbols are written is no part of them. -/
theorem decoded_wroteSymbols (s : State) (k pos : Nat) (sym : Nat → Nat) (flags : Flags) (errinfo : Word)
    (inflight : Option Word) :
    WroteSymbols s { s.decoded (vec k sym) pos with flags := flags, errinfo := errinfo, inflight := inflight }
      k pos sym := by
  have hlength : (vec k sym).length = k := vec_length ..
  refine ⟨sameRegs_update s _ _ _, ?_, fun i hi => ?_, congrArg (BitVec.ofNat 32) hlength, rfl, rfl⟩
  · have hframe := s.storeWords_frame .dmem s.dst ((vec k sym).map (BitVec.ofNat 32))
    rw [List.length_map, hlength] at hframe
    exact hframe
  · have hword := s.dmemWord_storeWords_vec s.dst (fun j => BitVec.ofNat 32 (sym j)) hi
    rw [← vec_map k sym (BitVec.ofNat 32)] at hword
    exact hword

theorem exec_ecDecode (p : Nat) (s : State) :
    exec (.ecDecode p) s =
      if !s.registered p then fail .unknownProfile s
      else if !(s.regionOk s.src0 (ceilDiv s.count 4) && s.regionOk s.dst s.gridSize) then fail .addrRange s
      else if overlap s.src0 (ceilDiv s.count 4) s.dst s.gridSize then fail .overlap s
      else (s.decodeGrid p s.gridSize 0).outcome s := rfl

/-- Settles O41: the three shared checks, then the grid's end is the one its first k symbols and the next one give. -/
theorem ecDecodeWritesSymbols : Obligations.EcDecodeWritesSymbols := by
  refine ⟨reservedFieldRefused_of_entry fun _ hopc => ⟨_, opcodeEntry_ecDecode hopc⟩, fun p s => ?_⟩
  obtain ⟨hprofile, hregions, hoverlap, hpassed⟩ := ends_of_entropy_checks (exec_ecDecode p s)
  refine ⟨hprofile, hregions, hoverlap, fun hreg hpasses hover sym pos hzero => ?_⟩
  have hexec : exec (.ecDecode p) s = (s.decodeGrid p s.gridSize (pos 0)).outcome s := by
    rw [hzero]
    exact hpassed hreg hpasses hover
  refine ⟨fun hall => ?_, fun k hk hdecodes => ⟨fun hshort hno => ?_, fun hbits hno => ?_⟩⟩
  · rw [State.decodeGrid_of_all_decode hall] at hexec
    exact ⟨_, hexec, completed_of_same_flags rfl, rfl, decoded_wroteSymbols ..⟩
  · have hfails := State.decodeGrid_truncated (pos_le_of_decodesTo hzero hdecodes) hshort hno
    rw [State.decodeGrid_of_failure hk hdecodes hfails] at hexec
    exact ⟨_, hexec.trans (fail_eq_errorState ..), ⟨rfl, rfl, rfl⟩, decoded_wroteSymbols ..⟩
  · rw [State.decodeGrid_of_failure hk hdecodes (State.decodeGrid_badCode hbits hno)] at hexec
    exact ⟨_, hexec.trans (fail_eq_errorState ..), ⟨rfl, rfl, rfl⟩, decoded_wroteSymbols ..⟩

end Sys2Proof.Machine
end

section
/-! PROOF. Encoding and decoding are inverse (30_encoding.md R90 to R92). One way each command is followed through its
row; the other way a word is its four fields (`commandWord_fields`), of which those that the opcode does not use are 0
(`encode_of_opcodeEntry`). -/

namespace Sys2Proof

/-! ### From a command to its word and back -/

/-- PROF is 4 bits wide, so EC_ENCODE's and EC_DECODE's words are 16 each. -/
theorem decode_encode_ecEncode {prof : Nat} (hprof : prof < 16) :
    decode (encode (.ecEncode prof)) = .ok (.ecEncode prof) := by
  have hall : ∀ p : Fin 16, decode (encode (.ecEncode p)) = .ok (.ecEncode p) := by decide
  exact hall ⟨prof, hprof⟩

theorem decode_encode_ecDecode {prof : Nat} (hprof : prof < 16) :
    decode (encode (.ecDecode prof)) = .ok (.ecDecode prof) := by
  have hall : ∀ p : Fin 16, decode (encode (.ecDecode p)) = .ok (.ecDecode p) := by decide
  exact hall ⟨prof, hprof⟩

/-- Settles O1: a row without fields has one word, one with ZIN or NOWR two, one with PROF sixteen. -/
theorem decodeOfEncode : Obligations.DecodeOfEncode := by
  intro i hwf
  cases i with
  | mdctFwd zin | stftFwd zin => cases zin <;> rfl
  | mdctInv nowr | stftInv nowr => cases nowr <;> rfl
  | ecEncode prof => exact decode_encode_ecEncode (of_decide_eq_true hwf)
  | ecDecode prof => exact decode_encode_ecDecode (of_decide_eq_true hwf)
  | _ => rfl

/-! ### From a word to its command and back -/

theorem commandWord_getLsbD (opc : Nat) (zin nowr : Bool) (prof k : Nat) :
    (commandWord opc zin nowr prof).getLsbD k =
      if k < 8 then opc.testBit k else if k = 8 then zin else if k = 9 then nowr
      else decide (16 ≤ k ∧ k < 20) && prof.testBit (k - 16) := by
  simp only [commandWord, BitVec.getLsbD_append, BitVec.getLsbD_ofNat, BitVec.getLsbD_ofBool]
  grind

theorem opcField_testBit (w : Word) (k : Nat) : (opcField w).testBit k = (decide (k < 8) && w.getLsbD k) := by
  rw [opcField, BitVec.testBit_toNat, BitVec.getLsbD_extractLsb', Nat.zero_add]

theorem profField_testBit (w : Word) (k : Nat) :
    (profField w).testBit k = (decide (k < 4) && w.getLsbD (16 + k)) := by
  rw [profField, BitVec.testBit_toNat, BitVec.getLsbD_extractLsb']

/-- The bits of R90's fields together. -/
theorem fieldMask_getLsbD : ∀ k < 32, (0x000F03FF : Word).getLsbD k = decide (k < 10 ∨ 16 ≤ k ∧ k < 20) := by
  decide

/-- The fields of a word (R90) give back its bits in the fields. -/
theorem commandWord_fields (w : Word) :
    commandWord (opcField w) (zinField w) (nowrField w) (profField w) = w &&& 0x000F03FF := by
  apply BitVec.eq_of_getLsbD_eq
  intro k hk
  rw [commandWord_getLsbD, BitVec.getLsbD_and, fieldMask_getLsbD k hk, opcField_testBit, profField_testBit, zinField,
    nowrField]
  by_cases hprof : 16 ≤ k ∧ k < 20
  · have hk' : 16 + (k - 16) = k := by omega
    rw [hk']
    grind
  · grind

theorem profField_and (w v : Word) : profField (w &&& v) = profField w &&& profField v := by
  rw [profField, BitVec.extractLsb'_and, BitVec.toNat_and, profField, profField]

theorem profField_and_all (w : Word) : profField w &&& 15 = profField w :=
  (Nat.and_two_pow_sub_one_eq_mod _ 4).trans (Nat.mod_eq_of_lt (BitVec.isLt _))

/-- The fields of the word of the entry's command: a field that the opcode does not use is 0 (R90). -/
theorem encode_of_opcodeEntry {w used : Word} {i : Instr} (h : opcodeEntry w = some (used, i)) :
    encode i = commandWord (opcField w) (zinField (w &&& used)) (nowrField (w &&& used)) (profField (w &&& used)) := by
  have hprofs : profField 0x000000FF = 0 ∧ profField 0x000001FF = 0 ∧ profField 0x000002FF = 0 ∧
      profField 0x000F00FF = 15 := by decide
  unfold opcodeEntry at h
  split at h
  all_goals
    rename_i hopc
    cases h
  all_goals
    simp only [hopc, profField_and, hprofs]
    simp [encode, zinField, nowrField, profField_and_all]

/-- The used bits of an opcode lie in R90's fields. -/
theorem opcodeEntry_used_subset {w used : Word} {i : Instr} (h : opcodeEntry w = some (used, i)) :
    used &&& 0x000F03FF = used := by
  unfold opcodeEntry at h
  split at h
  all_goals cases h
  all_goals decide

/-- A profile number that a word holds has 4 bits. -/
theorem wellFormed_of_opcodeEntry {w used : Word} {i : Instr} (h : opcodeEntry w = some (used, i)) :
    i.WellFormed := by
  have hprof : profField w < 16 := BitVec.isLt _
  unfold opcodeEntry at h
  split at h
  all_goals cases h
  all_goals simp [Instr.WellFormed, Instr.wellFormed, hprof]

/-- Settles O2: no bit outside the used ones is 1, so the word is its fields and they are the command's. -/
theorem decodedWordIsEncoding : Obligations.DecodedWordIsEncoding := by
  intro w i h
  obtain ⟨used, hentry, hunused⟩ := opcodeEntry_of_decode_ok h
  have hused : w &&& used = w := by
    have hsplit : w &&& used ||| w &&& ~~~used = w := by
      rw [← BitVec.and_or_distrib_left, BitVec.or_not_self, BitVec.and_allOnes]
    rw [hunused] at hsplit
    exact BitVec.or_zero.symm.trans hsplit
  refine ⟨wellFormed_of_opcodeEntry hentry, ?_⟩
  calc encode i = commandWord (opcField w) (zinField w) (nowrField w) (profField w) := by
        rw [encode_of_opcodeEntry hentry, hused]
    _ = w &&& used &&& 0x000F03FF := by rw [commandWord_fields, hused]
    _ = w := by rw [BitVec.and_assoc, opcodeEntry_used_subset hentry, hused]

/-- Settles O4, each word by computing its entry of the opcode map. -/
theorem wordsDecodeAsWrittenOut : Obligations.WordsDecodeAsWrittenOut := by
  unfold Obligations.WordsDecodeAsWrittenOut
  decide

end Sys2Proof
end

section
/-! PROOF. The address map (20_memory.md R62, R63) once and for all: which element a served offset names, that it exists,
and where nothing is mapped. -/

namespace Sys2Proof.Machine

open Sys2Proof.Config (Params)

/-- What the target names exists under the parameters (R62). -/
def Target.InRange (p : Params) : Target → Prop
  | .reg _ | .reserved => True
  | .hist i | .ola i => i < p.nmax
  | .clut i | .elut i => i < 2 ^ p.lutLog2 + 1
  | .ct q t => q < p.nprof ∧ t < p.nsym
  | .dmem i => i < p.dmemWords

/-! ### The ranges of the map -/

section
variable (p : Params) {a : Nat}

theorem target_gap (hlo : 0x00100 ≤ a) (hhi : a < 0x04000) : target p a = none := by
  rw [target, if_neg (by omega), if_pos hhi]

theorem target_hist (hlo : 0x04000 ≤ a) (hhi : a < 0x08000) : target p a = mappedElem a 0x04000 p.nmax .hist := by
  rw [target, if_neg (by omega), if_neg (by omega), if_pos hhi]

theorem target_ola (hlo : 0x08000 ≤ a) (hhi : a < 0x0C000) : target p a = mappedElem a 0x08000 p.nmax .ola := by
  rw [target, if_neg (by omega), if_neg (by omega), if_neg (by omega), if_pos hhi]

theorem target_clut (hlo : 0x0C000 ≤ a) (hhi : a < 0x0E000) :
    target p a = mappedElem a 0x0C000 (2 ^ p.lutLog2 + 1) .clut := by
  rw [target, if_neg (by omega), if_neg (by omega), if_neg (by omega), if_neg (by omega), if_pos hhi]

theorem target_elut (hlo : 0x0E000 ≤ a) (hhi : a < 0x10000) :
    target p a = mappedElem a 0x0E000 (2 ^ p.lutLog2 + 1) .elut := by
  rw [target, if_neg (by omega), if_neg (by omega), if_neg (by omega), if_neg (by omega), if_neg (by omega), if_pos hhi]

theorem target_ct (hlo : 0x10000 ≤ a) (hhi : a < 0x20000) :
    target p a = if (a - 0x10000) / 4 / 4096 < p.nprof ∧ (a - 0x10000) / 4 % 4096 < p.nsym then
      some (.ct ((a - 0x10000) / 4 / 4096) ((a - 0x10000) / 4 % 4096)) else none := by
  rw [target, if_neg (by omega), if_neg (by omega), if_neg (by omega), if_neg (by omega), if_neg (by omega),
    if_neg (by omega), if_pos hhi]
  simp only [Bool.and_eq_true, decide_eq_true_eq]

theorem target_dmem (hlo : 0x20000 ≤ a) (hhi : a < 0x60000) :
    target p a = mappedElem a 0x20000 p.dmemWords .dmem := by
  rw [target, if_neg (by omega), if_neg (by omega), if_neg (by omega), if_neg (by omega), if_neg (by omega),
    if_neg (by omega), if_neg (by omega), if_pos hhi]

theorem target_end (hlo : 0x60000 ≤ a) : target p a = none := by
  rw [target, if_neg (by omega), if_neg (by omega), if_neg (by omega), if_neg (by omega), if_neg (by omega),
    if_neg (by omega), if_neg (by omega), if_neg (by omega)]

end

/-! ### What is mapped -/

/-- Below 0x100 the map has the register file alone. -/
theorem target_low {p : Params} {a : Nat} {t : Target} (ha : a < 0x100) (h : target p a = some t) :
    t.isRam = false ∧ t.InRange p := by
  rw [target, if_pos ha] at h
  split at h
  all_goals
    cases h
    exact ⟨rfl, trivial⟩

theorem mappedElem_spec {p : Params} {a lo entries : Nat} {f : Nat → Target} {t : Target}
    (h : mappedElem a lo entries f = some t) (hf : ∀ i < entries, (f i).isRam = true ∧ (f i).InRange p) :
    t.isRam = true ∧ t.InRange p := by
  rw [mappedElem] at h
  split at h
  case isTrue hi => exact Option.some.inj h ▸ hf _ hi
  case isFalse => cases h

/-- From 0x100 on the map has elements of the RAMs alone, and each of them exists. -/
theorem target_high {p : Params} {a : Nat} {t : Target} (ha : 0x100 ≤ a) (h : target p a = some t) :
    t.isRam = true ∧ t.InRange p := by
  rcases Nat.lt_or_ge a 0x04000 with h1 | h1
  · simp [target_gap p ha h1] at h
  rcases Nat.lt_or_ge a 0x08000 with h2 | h2
  · exact mappedElem_spec (target_hist p h1 h2 ▸ h) fun _ hi => ⟨rfl, hi⟩
  rcases Nat.lt_or_ge a 0x0C000 with h3 | h3
  · exact mappedElem_spec (target_ola p h2 h3 ▸ h) fun _ hi => ⟨rfl, hi⟩
  rcases Nat.lt_or_ge a 0x0E000 with h4 | h4
  · exact mappedElem_spec (target_clut p h3 h4 ▸ h) fun _ hi => ⟨rfl, hi⟩
  rcases Nat.lt_or_ge a 0x10000 with h5 | h5
  · exact mappedElem_spec (target_elut p h4 h5 ▸ h) fun _ hi => ⟨rfl, hi⟩
  rcases Nat.lt_or_ge a 0x20000 with h6 | h6
  · rw [target_ct p h5 h6] at h
    split at h
    case isTrue hct => exact Option.some.inj h ▸ ⟨rfl, hct⟩
    case isFalse => cases h
  rcases Nat.lt_or_ge a 0x60000 with h7 | h7
  · exact mappedElem_spec (target_dmem p h6 h7 ▸ h) fun _ hi => ⟨rfl, hi⟩
  · simp [target_end p h7] at h

theorem target_inRange {p : Params} {a : Nat} {t : Target} (h : target p a = some t) : t.InRange p := by
  obtain hlow | hhigh := Nat.lt_or_ge a 0x100
  · exact (target_low hlow h).2
  · exact (target_high hhigh h).2

theorem target_of_served {p : Params} {a width : Nat} {t : Target} (h : served p a width = some t) :
    target p a = some t := by
  rw [served] at h
  split at h
  · exact h
  · cases h

/-- Element i of a range that starts at `lo` is at lo + 4i. -/
theorem mappedElem_offset {lo i entries : Nat} (f : Nat → Target) (hi : i < entries) :
    mappedElem (lo + 4 * i) lo entries f = some (f i) := by
  have hindex : (lo + 4 * i - lo) / 4 = i := by omega
  rw [mappedElem, hindex, if_pos hi]

theorem served_aligned (p : Params) {a : Nat} (ha : a % 4 = 0) : served p a 4 = target p a := by
  simp [served, ha]

theorem Target.offset_aligned (t : Target) : t.offset % 4 = 0 := by
  cases t with
  | reg r => exact r.offset_aligned
  | reserved => rfl
  | _ => simp only [Target.offset]; omega

theorem lutEntries_le {p : Params} (hp : p.Legal) : 2 ^ p.lutLog2 ≤ 1024 := by
  obtain ⟨-, -, -, -, -, -, hlut, -⟩ := hp
  exact Nat.pow_le_pow_right (by decide) hlut

/-- The map puts each element of a RAM at its offset (R62). -/
theorem served_offset {p : Params} (hp : p.Legal) {t : Target} (hram : t.isRam = true) (ht : t.InRange p) :
    served p t.offset 4 = some t := by
  have htable := lutEntries_le hp
  obtain ⟨-, -, hnmax, -, hwords, -, -, -, hnprof, -, hnsym, -⟩ := hp
  rw [served_aligned p t.offset_aligned]
  cases t with
  | reg r => cases hram
  | reserved => cases hram
  | hist i =>
    have hi : i < p.nmax := ht
    exact (target_hist p (by simp [Target.offset]) (by simp only [Target.offset]; omega)).trans (mappedElem_offset _ hi)
  | ola i =>
    have hi : i < p.nmax := ht
    exact (target_ola p (by simp [Target.offset]) (by simp only [Target.offset]; omega)).trans (mappedElem_offset _ hi)
  | clut i =>
    have hi : i < 2 ^ p.lutLog2 + 1 := ht
    exact (target_clut p (by simp [Target.offset]) (by simp only [Target.offset]; omega)).trans (mappedElem_offset _ hi)
  | elut i =>
    have hi : i < 2 ^ p.lutLog2 + 1 := ht
    exact (target_elut p (by simp [Target.offset]) (by simp only [Target.offset]; omega)).trans (mappedElem_offset _ hi)
  | dmem i =>
    have hi : i < p.dmemWords := ht
    exact (target_dmem p (by simp [Target.offset]) (by simp only [Target.offset]; omega)).trans (mappedElem_offset _ hi)
  | ct q k =>
    obtain ⟨hq, hk⟩ := ht
    have hprofile : (0x10000 + 4 * (4096 * q + k) - 0x10000) / 4 / 4096 = q := by omega
    have hsymbol : (0x10000 + 4 * (4096 * q + k) - 0x10000) / 4 % 4096 = k := by omega
    rw [Target.offset, target_ct p (by omega) (by omega), hprofile, hsymbol, if_pos ⟨hq, hk⟩]

/-! ### What is not mapped -/

theorem mappedElem_eq_none {a lo entries : Nat} (f : Nat → Target) (ha : lo + 4 * entries ≤ a) :
    mappedElem a lo entries f = none := by
  rw [mappedElem, if_neg (by omega)]

end Sys2Proof.Machine
end

section
/-! PROOF. Host accesses (20_memory.md R63 to R66): one equation for each way an access goes, from the target it reaches,
and what an access while a command runs can change. -/

namespace Sys2Proof.Machine

open Sys2Proof.Config (Params)

/-! ### The ways an access goes -/

theorem State.hostRead_of_unserved {s : State} {a width : Nat} (h : served s.cfg a width = none) :
    s.hostRead a width = { s.noteBusErr with rdata := 0 } := by
  rw [State.hostRead, h]

theorem State.hostRead_of_served {s : State} {a width : Nat} {t : Target} (h : served s.cfg a width = some t) :
    s.hostRead a width =
      if s.busy && t.isRam then { s with rdata := Config.freeWord s.draws, draws := s.draws + 1 }
      else { s with rdata := s.readTarget t } := by
  rw [State.hostRead, h]

theorem State.hostWrite_of_unserved {s : State} {a width : Nat} (v : Word) (h : served s.cfg a width = none) :
    s.hostWrite a width v = s.noteBusErr := by
  simp only [State.hostWrite, h]

theorem State.hostWrite_of_busy {s : State} {a width : Nat} {t : Target} (v : Word) (hbusy : s.busy = true)
    (h : served s.cfg a width = some t) (hctrl : t ≠ .reg .ctrl) (hstatus : t ≠ .reg .status) :
    s.hostWrite a width v = s.noteHostErr (busyWriteFlags t) := by
  simp only [State.hostWrite, h]
  rw [if_pos hbusy]

theorem State.hostWrite_of_idle {s : State} {a width : Nat} {t : Target} (v : Word) (hidle : s.busy = false)
    (h : served s.cfg a width = some t) : s.hostWrite a width v = s.writeTarget v t := by
  simp only [State.hostWrite, h]
  split
  case h_1 heq => cases heq
  case h_2 heq => rw [Option.some.inj heq]; rfl
  case h_3 heq => rw [Option.some.inj heq]; rfl
  case h_4 heq => rw [hidle, Option.some.inj heq]; rfl

/-- A write while idle to a register other than CTRL and STATUS. -/
theorem State.hostWrite_reg_of_idle {s : State} (v : Word) (hidle : s.busy = false) (r : Reg) :
    s.hostWrite r.offset 4 v = s.writeReg v r :=
  State.hostWrite_of_idle v hidle (served_reg s.cfg r)

/-! ### Accesses that are not served -/

/-- Settles O49: R62's unmapped ranges are those where the map has no element, and there an access is not served. -/
theorem unservedAccessOnlySetsBuserr : Obligations.UnservedAccessOnlySetsBuserr := by
  intro s a width v hcfg i unmapped hout
  have hunserved : served s.cfg a width = none := by
    by_cases haligned : width = 4 ∧ a % 4 = 0
    case neg => simpa [served] using fun hwidth hmod => absurd ⟨hwidth, hmod⟩ haligned
    case pos =>
      obtain ⟨rfl, hmod⟩ := haligned
      rw [served_aligned _ hmod]
      have hunmapped : unmapped := by simpa [hmod] using hout
      have htable := lutEntries_le hcfg
      obtain ⟨-, -, hnmax, -, hwords, -⟩ := hcfg
      rcases hunmapped with h | h | h | h | h | h | h
      · exact target_gap _ h.1 h.2
      · exact (target_hist _ (by omega) h.2).trans (mappedElem_eq_none _ h.1)
      · exact (target_ola _ (by omega) h.2).trans (mappedElem_eq_none _ h.1)
      · exact (target_clut _ (by omega) h.2).trans (mappedElem_eq_none _ h.1)
      · exact (target_elut _ (by omega) h.2).trans (mappedElem_eq_none _ h.1)
      · exact (target_ct _ h.1 h.2.1).trans (if_neg h.2.2)
      · obtain hin | hend := Nat.lt_or_ge a 0x60000
        · exact (target_dmem _ (by omega) hin).trans (mappedElem_eq_none _ h)
        · exact target_end _ hend
  exact ⟨State.hostRead_of_unserved hunserved, State.hostWrite_of_unserved v hunserved⟩

/-! ### Reads -/

/-- Settles O48: an access that is not served sets BUSERR, a busy RAM read draws a value, any other read gives one. -/
theorem hostReadsHaveNoSideEffects : Obligations.HostReadsHaveNoSideEffects := by
  intro s a width
  cases hserved : served s.cfg a width with
  | none => exact ⟨0, s.draws, true, by simp [State.hostRead_of_unserved hserved, State.noteBusErr]⟩
  | some t =>
    rw [State.hostRead_of_served hserved]
    split
    case isTrue => exact ⟨_, _, false, by rw [Bool.or_false]⟩
    case isFalse => exact ⟨_, s.draws, false, by rw [Bool.or_false]⟩

/-- Settles O52: from 0x100 on the map has elements of the RAMs alone, so the read is the free draw. -/
theorem busyRamReadsAreFreeDraws : Obligations.BusyRamReadsAreFreeDraws := by
  intro s a t hbusy hserved ha
  have hram := (target_high ha (target_of_served hserved)).1
  rw [State.hostRead_of_served hserved, hbusy, hram]
  rfl

/-! ### Accesses while a command runs -/

theorem busyWriteFlags_of_ne_reserved {t : Target} (h : t ≠ .reserved) : busyWriteFlags t = true := by
  cases t
  case reserved => exact absurd rfl h
  all_goals rfl

/-- Settles O51: such a write is `set STATUS.HOSTERR`, unconditional but for the reserved offsets. -/
theorem busyWritesAreIgnored : Obligations.BusyWritesAreIgnored := by
  intro s a v t hbusy hserved hctrl hstatus
  rw [State.hostWrite_of_busy v hbusy hserved hctrl hstatus]
  exact ⟨fun hres => by rw [busyWriteFlags_of_ne_reserved hres, State.noteHostErr_true], busyWriteFlags t, rfl⟩

/-- What the host's accesses change beside a running command: IE, the flags, and the model's own fields of a read. -/
def State.withHostSide (s : State) (ie : Bool) (flags : Flags) (rdata : Word) (draws : Nat) : State :=
  { s with ie := ie, flags := flags, rdata := rdata, draws := draws }

/-- A read changes the host's side alone. -/
theorem State.hostRead_hostSide (s : State) (a width : Nat) :
    ∃ flags rdata draws, s.hostRead a width = s.withHostSide s.ie flags rdata draws := by
  obtain ⟨v, k, b, h⟩ := hostReadsHaveNoSideEffects s a width
  exact ⟨_, v, k, h⟩

@[simp] theorem State.softReset_busy (s : State) : s.softReset.busy = false := rfl

/-- A write while a command runs that does not cancel it changes the host's side alone. -/
theorem State.hostWrite_hostSide {s : State} {a width : Nat} {v : Word} (hbusy : s.busy = true)
    (hstays : (s.hostWrite a width v).busy = true) :
    ∃ ie flags, s.hostWrite a width v = s.withHostSide ie flags s.rdata s.draws := by
  cases hserved : served s.cfg a width with
  | none => exact ⟨_, _, State.hostWrite_of_unserved v hserved⟩
  | some t =>
    by_cases hctrl : t = .reg .ctrl
    · have hwrite : s.hostWrite a width v = s.writeCtrl v := by simp only [State.hostWrite, hserved, hctrl]
      rw [hwrite] at hstays ⊢
      rw [State.writeCtrl] at hstays ⊢
      split at hstays
      case isTrue => simp at hstays
      case isFalse hsrst => exact ⟨_, _, if_neg hsrst⟩
    by_cases hstatus : t = .reg .status
    · exact ⟨s.ie, _, by simp only [State.hostWrite, hserved, hstatus]; rfl⟩
    · exact ⟨_, _, State.hostWrite_of_busy v hbusy hserved hctrl hstatus⟩

theorem State.hostAccess_hostSide {s : State} {x : Access} (hbusy : s.busy = true)
    (hstays : (s.hostAccess x).busy = true) :
    ∃ ie flags rdata draws, s.hostAccess x = s.withHostSide ie flags rdata draws := by
  rw [State.hostAccess] at hstays ⊢
  cases hwindow : windowOffset s.cfg x.addr with
  | none => exact ⟨s.ie, s.flags, s.rdata, s.draws, rfl⟩
  | some a =>
    rw [hwindow] at hstays
    cases hop : x.op with
    | read => exact ⟨s.ie, s.hostRead_hostSide a x.width⟩
    | write v =>
      rw [hop] at hstays
      obtain ⟨ie, flags, h⟩ := State.hostWrite_hostSide hbusy hstays
      exact ⟨ie, flags, _, _, h⟩

/-- Settles O45: what such an access changes is the host's side, which no command reads. -/
theorem busyAccessKeepsCapturedState : Obligations.BusyAccessKeepsCapturedState := by
  intro s x hbusy hstays
  obtain ⟨ie, flags, rdata, draws, h⟩ := State.hostAccess_hostSide hbusy hstays
  rw [h]
  exact ⟨rfl, rfl, rfl, rfl, rfl, rfl, rfl, rfl, rfl, rfl, rfl, rfl⟩

/-! ### An access is one step -/

theorem windowOffset_base_add (p : Params) {a : Nat} (ha : a < 0x80000) : windowOffset p (p.base + a) = some a := by
  simp [windowOffset, ha]

theorem windowOffset_eq_none {p : Params} {addr : Nat} (h : addr < p.base ∨ p.base + 0x80000 ≤ addr) :
    windowOffset p addr = none := by
  rw [windowOffset, if_neg]
  simpa using fun hbase => h.resolve_left hbase.not_gt

/-- Settles O8: the step takes the event off the agenda and performs it; the window offset is the distance from
P_BASE. -/
theorem hostEventIsOneStep : Obligations.HostEventIsOneStep := by
  refine ⟨fun s rest => ⟨fun x hx => ?_, fun hreset => ?_⟩, fun s => ⟨fun a width ha => ?_, fun x hx => ?_⟩⟩
  · rw [step, hx]
  · rw [step, hreset]
  · simp only [State.hostAccess, windowOffset_base_add s.cfg ha, implies_true, and_self]
  · rw [State.hostAccess, windowOffset_eq_none hx]

end Sys2Proof.Machine
end

section
/-! PROOF. The two resets (70_reset_and_hazards.md R290, R291): both leave the registers of State.reset, which read as the
spec says; a soft reset while idle leaves the RAMs. -/

namespace Sys2Proof.Machine

/-! ### The registers -/

/-- Either reset leaves every register as State.reset has it; PARAM0 and PARAM1 are those of `cfg`. -/
theorem State.resetRegisters_readReg (s : State) {r : Reg} (h0 : r ≠ .param0) (h1 : r ≠ .param1) :
    s.resetRegisters.readReg r = State.reset.readReg r := by
  cases r
  case param0 => exact absurd rfl h0
  case param1 => exact absurd rfl h1
  all_goals rfl

theorem State.softReset_readReg (s : State) {r : Reg} (h0 : r ≠ .param0) (h1 : r ≠ .param1) :
    s.softReset.readReg r = State.reset.readReg r :=
  s.cancelInflight.resetRegisters_readReg h0 h1

/-- Settles O10, each register by its reset value. -/
theorem resetRegistersReadAsSpecified : Obligations.ResetRegistersReadAsSpecified := by
  refine ⟨rfl, rfl, by decide, by decide, fun r hid hversion h0 h1 => ?_, rfl, rfl⟩
  cases r
  case id => exact absurd rfl hid
  case version => exact absurd rfl hversion
  case param0 => exact absurd rfl h0
  case param1 => exact absurd rfl h1
  all_goals decide

/-! ### The hard reset -/

/-- No byte is written in a RAM after a hard reset, so each reads as the new epoch's power-on value. -/
theorem State.hardReset_ramByte (s : State) (r : Config.RamId) (x : Nat) :
    s.hardReset.ramByte r x = Config.powerOnByte (s.epoch + 1) r x := by
  cases r <;> rfl

/-- Settles O11: the registers are those of State.reset and no RAM byte is written. -/
theorem hardResetFromAnyState : Obligations.HardResetFromAnyState := by
  intro s
  exact ⟨fun _ => s.resetRegisters_readReg, rfl, rfl, rfl, rfl, rfl, rfl, rfl, s.hardReset_ramByte⟩

/-! ### The soft reset while idle -/

theorem State.inflight_eq_none_iff (s : State) : s.inflight = none ↔ s.busy = false := by
  rw [State.busy, Option.isSome_eq_false_iff, Option.isNone_iff_eq_none]

theorem State.cancelInflight_of_idle {s : State} (hidle : s.busy = false) : s.cancelInflight = s := by
  rw [State.cancelInflight, s.inflight_eq_none_iff.mpr hidle]

/-- Settles O14: with nothing to cancel, the registers are reset and nothing else. -/
theorem softResetWhileIdle : Obligations.SoftResetWhileIdle := by
  intro s hidle
  have hreset : s.softReset = s.resetRegisters := congrArg State.resetRegisters (State.cancelInflight_of_idle hidle)
  rw [hreset]
  exact ⟨fun _ => s.resetRegisters_readReg, rfl, rfl, rfl, rfl, rfl, rfl, fun _ _ _ => rfl⟩

/-! ### The step while idle and with a command in flight -/

/-- Settles O7: without a command in flight the sequencer's turn answers the same state. -/
theorem idleChangesNothing : Obligations.IdleChangesNothing := by
  intro s hidle
  have hnone := s.inflight_eq_none_iff.mpr hidle
  constructor
  case left => exact fun hagenda => by rw [step, hagenda, sequencerTurn, hnone]
  case right => exact fun rest hagenda => by simp only [step, hagenda, sequencerTurn, hnone]

theorem runWord_of_decode_ok {w : Word} {i : Instr} (h : decode w = .ok i) (s : State) : runWord w s = exec i s := by
  rw [runWord, h]

/-- Settles O5: the sequencer's turn performs the command that the in-flight word decodes to. -/
theorem stepRunsInflightCommand : Obligations.StepRunsInflightCommand := by
  intro s w i hw hdecode
  constructor
  case left => exact fun hagenda => by simp only [step, hagenda, sequencerTurn, hw, runWord_of_decode_ok hdecode]
  case right =>
    exact fun rest hagenda => (step_sequencer_of_inflight hw hagenda).trans (runWord_of_decode_ok hdecode _)

end Sys2Proof.Machine
end

section
/-! PROOF. The registers on the host's bus (10_state.md R20 to R37): their fields as numbers, what a read returns and
what a write stores. -/

namespace Sys2Proof.Machine

open Sys2Proof.Config (Params)

/-! ### Register words as numbers -/

/-- Concatenation is a sum: the upper field's weight is 2 to the width of the lower. -/
theorem ofNat_toNat_append {n m : Nat} (x : BitVec n) (y : BitVec m) :
    (x ++ y).toNat = x.toNat * 2 ^ m + y.toNat := by
  rw [BitVec.toNat_append, ← Nat.shiftLeft_add_eq_or_of_lt y.isLt, Nat.shiftLeft_eq]

theorem bitWord_eq_ofNat (b : Bool) : bitWord b = BitVec.ofNat 32 b.toNat := by cases b <;> rfl

theorem statusWord_eq_ofNat (s : State) :
    s.statusWord = BitVec.ofNat 32 (s.busy.toNat + 2 * s.flags.done.toNat + 4 * s.flags.err.toNat
      + 8 * s.flags.sat.toNat + 16 * s.flags.divz.toNat + 32 * s.flags.buserr.toNat + 64 * s.flags.hosterr.toNat) := by
  apply BitVec.eq_of_toNat_eq
  have hbusy := Bool.toNat_le s.busy
  have hdone := Bool.toNat_le s.flags.done
  have herr := Bool.toNat_le s.flags.err
  have hsat := Bool.toNat_le s.flags.sat
  have hdivz := Bool.toNat_le s.flags.divz
  have hbuserr := Bool.toNat_le s.flags.buserr
  have hhosterr := Bool.toNat_le s.flags.hosterr
  simp only [State.statusWord, ofNat_toNat_append, BitVec.toNat_ofBool, BitVec.toNat_ofNat]
  omega

theorem param0Word_eq_ofNat {p : Params} (hp : p.Legal) :
    param0Word p = BitVec.ofNat 32 (p.nmax + 2 ^ 16 * p.lutLog2 + 2 ^ 20 * p.nprof) := by
  obtain ⟨-, -, hnmax, -, -, -, hlut, -, hnprof, -⟩ := hp
  apply BitVec.eq_of_toNat_eq
  simp only [param0Word, ofNat_toNat_append, BitVec.toNat_ofNat]
  omega

theorem param1Word_eq_ofNat {p : Params} (hp : p.Legal) :
    param1Word p = BitVec.ofNat 32 (p.dmemWords + 2 ^ 17 * p.nsym) := by
  obtain ⟨-, -, -, -, hwords, -, -, -, -, -, hnsym, -⟩ := hp
  apply BitVec.eq_of_toNat_eq
  simp only [param1Word, ofNat_toNat_append, BitVec.toNat_ofNat]
  omega

theorem low_half_eq_ofNat (w : DWord) : w.extractLsb' 0 32 = BitVec.ofNat 32 (w.toNat % 2 ^ 32) := by
  apply BitVec.eq_of_toNat_eq
  simp [BitVec.extractLsb'_toNat]

theorem high_half_eq_ofNat (w : DWord) : w.extractLsb' 32 32 = BitVec.ofNat 32 (w.toNat / 2 ^ 32) := by
  apply BitVec.eq_of_toNat_eq
  simp [BitVec.extractLsb'_toNat, Nat.shiftRight_eq_div_pow]

/-! ### Reads -/

/-- A register is read the same way whether or not a command runs (R66). -/
theorem State.readsAs_reg (s : State) (r : Reg) : ReadsAs s r.offset (s.readReg r) := by
  rw [ReadsAs, State.hostRead_of_served (served_reg s.cfg r), if_neg (by simp [Target.isRam]), State.readTarget]

theorem State.readsAs_of_eq {s : State} {v : Word} (r : Reg) (h : s.readReg r = v) : ReadsAs s r.offset v :=
  h ▸ s.readsAs_reg r

/-- Settles O47: each offset is that of a register, whose word is the number of its fields. -/
theorem registerReadsReturnTheirValue : Obligations.RegisterReadsReturnTheirValue := by
  intro s
  exact ⟨s.readsAs_reg, s.readsAs_reg .id, s.readsAs_reg .version,
    fun hcfg => ⟨State.readsAs_of_eq .param0 (param0Word_eq_ofNat hcfg),
      State.readsAs_of_eq .param1 (param1Word_eq_ofNat hcfg)⟩,
    State.readsAs_of_eq .ctrl (bitWord_eq_ofNat _), State.readsAs_of_eq .status (statusWord_eq_ofNat s),
    s.readsAs_reg .errinfo, s.readsAs_reg .cmd, s.readsAs_reg .src0, s.readsAs_reg .src1, s.readsAs_reg .src2,
    s.readsAs_reg .dst, s.readsAs_reg .count, s.readsAs_reg .rows, s.readsAs_reg .cols, s.readsAs_reg .cap,
    s.readsAs_reg .xfN, s.readsAs_reg .shiftv, s.readsAs_reg .res0, s.readsAs_reg .res1, s.readsAs_reg .res2,
    s.readsAs_reg .qMin, s.readsAs_reg .qMax, s.readsAs_reg .qLevels,
    State.readsAs_of_eq .qRcpLo (low_half_eq_ofNat _), State.readsAs_of_eq .qRcpHi (high_half_eq_ofNat _),
    State.readsAs_of_eq .qStepLo (low_half_eq_ofNat _), State.readsAs_of_eq .qStepHi (high_half_eq_ofNat _),
    State.readsAs_of_eq .qValid (bitWord_eq_ofNat _), s.readsAs_reg .sOldMin, s.readsAs_reg .sOldMax,
    s.readsAs_reg .sNewMin, s.readsAs_reg .sNewMax,
    State.readsAs_of_eq .sKLo (low_half_eq_ofNat _), State.readsAs_of_eq .sKHi (high_half_eq_ofNat _),
    State.readsAs_of_eq .sValid (bitWord_eq_ofNat _), s.readsAs_reg .ecProfv⟩

/-! ### STATUS and CTRL -/

/-- STATUS bit by bit (R25, R26). -/
theorem State.statusWord_getLsbD (s : State) (k : Nat) :
    s.statusWord.getLsbD k = [s.busy, s.flags.done, s.flags.err, s.flags.sat, s.flags.divz, s.flags.buserr,
      s.flags.hosterr].getD k false := by
  simp only [State.statusWord, BitVec.getLsbD_append, BitVec.getLsbD_ofBool, BitVec.getLsbD_zero]
  rcases Nat.lt_or_ge k 7 with hk | hk
  · interval_cases k <;> simp
  · rw [List.getD_eq_default _ _ (by simpa using hk)]
    grind

/-- W1C, bit by bit: of the bits 1 to 6 those that are 1 in the written word are cleared. -/
theorem State.writeStatus_statusWord_getLsbD (s : State) (v : Word) (k : Nat) :
    (s.writeStatus v).statusWord.getLsbD k =
      (s.statusWord.getLsbD k && !(decide (1 ≤ k ∧ k ≤ 6) && v.getLsbD k)) := by
  have hbusy : (s.writeStatus v).busy = s.busy := rfl
  rw [State.statusWord_getLsbD, State.statusWord_getLsbD, hbusy, State.writeStatus_flags]
  rcases Nat.lt_or_ge k 7 with hk | hk
  · interval_cases k <;> simp [Flags.clearedBy]
  · rw [List.getD_eq_default _ _ (by simpa using hk), List.getD_eq_default _ _ (by simpa using hk)]
    rfl

/-- Settles O53: a write to STATUS is `writeStatus`, and both words are their seven bits. -/
theorem statusBitsAreWriteOneToClear : Obligations.StatusBitsAreWriteOneToClear := by
  intro s v
  have hwrite : s.hostWrite 0x014 4 v = s.writeStatus v := s.hostWrite_status v
  rw [hwrite]
  refine ⟨rfl, s.writeStatus_statusWord_getLsbD v, ?_, ?_, ?_, ?_, ?_, ?_, ?_, fun k hk => ?_⟩ <;>
    rw [State.statusWord_getLsbD]
  case refine_8 => exact List.getD_eq_default _ _ (by simpa using hk)
  all_goals rfl

/-- Settles O58: the three forms of a CTRL access, of which the soft reset clears IE too. -/
theorem ctrlStoresEnableOrResets : Obligations.CtrlStoresEnableOrResets := by
  intro s v
  have hwrite : s.hostWrite 0x010 4 v = s.writeCtrl v := s.hostWrite_ctrl v
  rw [hwrite]
  refine ⟨s.writeCtrl_of_no_srst, fun hsrst => ?_, ?_⟩
  · have hreset : s.writeCtrl v = s.softReset := if_pos hsrst
    rw [hreset]
    exact ⟨rfl, s.softReset_readReg (by decide) (by decide)⟩
  · rw [State.readReg]
    cases s.ie <;> rfl

/-! ### Writes while idle -/

/-- Settles O60: each offset is that of a register, which stores the word or is read-only. -/
theorem idleRegisterWritesStoreOrAreIgnored : Obligations.IdleRegisterWritesStoreOrAreIgnored := by
  intro s v hidle
  have hwrite (r : Reg) : s.hostWrite r.offset 4 v = s.writeReg v r := State.hostWrite_reg_of_idle v hidle r
  refine ⟨hwrite .src0, hwrite .src1, hwrite .src2, hwrite .dst, hwrite .count, hwrite .rows, hwrite .cols, hwrite .cap,
    hwrite .xfN, hwrite .shiftv, ?_⟩
  simp only [List.forall_mem_cons, List.not_mem_nil, false_imp_iff, implies_true, and_true]
  exact ⟨hwrite .id, hwrite .version, hwrite .param0, hwrite .param1, hwrite .errinfo, hwrite .res0, hwrite .res1,
    hwrite .res2, hwrite .qRcpLo, hwrite .qRcpHi, hwrite .qStepLo, hwrite .qStepHi, hwrite .qValid, hwrite .sKLo,
    hwrite .sKHi, hwrite .sValid⟩

/-- The quantizer's commands test Q_VALID before anything else (R202, R203). -/
theorem endsWith_of_not_qValid {s : State} (h : s.quant.qValid = false) :
    EndsWith 0x04 .quant s ∧ EndsWith 0x04 .dequant s :=
  ⟨(quantWritesIndices.2 s).1 h, (dequantWritesValues.2 s).1 h⟩

theorem endsWith_of_not_sValid {s : State} (h : s.scl.sValid = false) : EndsWith 0x04 .scale s :=
  (scaleWritesRemap.2 s).1 h

/-- Settles O55: each of the seven writes stores its word and clears the valid bit that the next command tests first. -/
theorem configurationWritesInvalidate : Obligations.ConfigurationWritesInvalidate := by
  intro s v hidle
  have hwrite (r : Reg) : s.hostWrite r.offset 4 v = s.writeReg v r := State.hostWrite_reg_of_idle v hidle r
  have hqMin := hwrite .qMin
  have hqMax := hwrite .qMax
  have hqLevels := hwrite .qLevels
  have holdMin := hwrite .sOldMin
  have holdMax := hwrite .sOldMax
  have hnewMin := hwrite .sNewMin
  have hnewMax := hwrite .sNewMax
  refine ⟨hqMin, hqMax, hqLevels, holdMin, holdMax, hnewMin, hnewMax, ?_, ?_⟩
  all_goals simp only [List.forall_mem_cons, List.not_mem_nil, false_imp_iff, implies_true, and_true]
  · exact ⟨hqMin ▸ endsWith_of_not_qValid rfl, hqMax ▸ endsWith_of_not_qValid rfl,
      hqLevels ▸ endsWith_of_not_qValid rfl⟩
  · exact ⟨holdMin ▸ endsWith_of_not_sValid rfl, holdMax ▸ endsWith_of_not_sValid rfl,
      hnewMin ▸ endsWith_of_not_sValid rfl, hnewMax ▸ endsWith_of_not_sValid rfl⟩

/-- The mask of R37 has the bits below P_NPROF. -/
theorem profvMasked_getLsbD (p : Params) (v : Word) (k : Nat) :
    (profvMasked p v).getLsbD k = (v.getLsbD k && decide (k < p.nprof)) := by
  rw [profvMasked, BitVec.getLsbD_and, BitVec.getLsbD_ofNat, Nat.testBit_two_pow_sub_one]
  by_cases hk : k < 32
  · simp [hk]
  · simp [BitVec.getLsbD_of_ge v k (not_lt.mp hk)]

/-- Settles O57: an idle write to EC_PROFV stores the word under R37's mask. -/
theorem profvKeepsOnlyExistingProfiles : Obligations.ProfvKeepsOnlyExistingProfiles := by
  intro s v hidle
  have hwrite : s.hostWrite 0x0A0 4 v = s.writeReg v .ecProfv := State.hostWrite_reg_of_idle v hidle .ecProfv
  rw [hwrite]
  exact ⟨rfl, profvMasked_getLsbD s.cfg v⟩

end Sys2Proof.Machine
end

section
/-! PROOF. Host writes to the RAMs while idle (20_memory.md R63): the element written reads back in its own view, and
nothing but its bytes changes. -/

namespace Sys2Proof.Machine

open Sys2Proof.Config (RamId)

/-! ### The views -/

theorem State.ramWord_storeWords_same (s : State) (r : RamId) (i : Nat) (v : Word) :
    (s.storeWords r i [v]).ramWord r (4 * i) = v := by
  rw [State.ramWord_storeWords, dif_pos ⟨rfl, le_rfl, by simp⟩]
  simp

theorem State.histEntry_store_same (s : State) (i : Nat) (h : Half) :
    (s.store .hist (2 * i) (halfBytes h)).histEntry i = h := by
  rw [State.histEntry, State.ramByte_store, State.ramByte_store, dif_pos ⟨rfl, by omega, by simp⟩,
    dif_pos ⟨rfl, le_rfl, by simp⟩]
  simpa [halfBytes] using half_of_bytes h

theorem ctLenField_eq (w : Word) : ctLenField w = w.toNat / 2 ^ 24 % 32 := by
  rw [ctLenField, BitVec.extractLsb'_toNat, Nat.shiftRight_eq_div_pow]

/-- The legal entry of a word as a mask (R44): bits 28:0, or CODE alone when LEN is above 24. -/
theorem ctLegal_eq_and (w : Word) :
    ctLegal w = if ctLenField w ≤ 24 then w &&& 0x1FFFFFFF else w &&& 0x00FFFFFF := by
  have hall : ∀ k < 32, (0x1FFFFFFF : Word).getLsbD k = decide (k < 29) := by decide
  have hcode : ∀ k < 32, (0x00FFFFFF : Word).getLsbD k = decide (k < 24) := by decide
  rw [ctLegal]
  split
  case isTrue =>
    apply BitVec.eq_of_getLsbD_eq
    intro k hk
    rw [BitVec.getLsbD_and, hall k hk]
    simp only [BitVec.getLsbD_append, BitVec.getLsbD_extractLsb', BitVec.getLsbD_zero]
    grind
  case isFalse =>
    apply BitVec.eq_of_getLsbD_eq
    intro k hk
    rw [BitVec.getLsbD_and, hcode k hk]
    simp only [BitVec.getLsbD_append, BitVec.getLsbD_extractLsb', BitVec.getLsbD_zero]
    grind

theorem ctLegal_len (w : Word) :
    (ctLegal w).extractLsb' 24 5 = if ctLenField w ≤ 24 then w.extractLsb' 24 5 else 0#5 := by
  apply BitVec.eq_of_getLsbD_eq
  intro k hk
  simp only [ctLegal, BitVec.getLsbD_append, BitVec.getLsbD_extractLsb']
  grind

theorem ctLegal_code (w : Word) : (ctLegal w).extractLsb' 0 24 = w.extractLsb' 0 24 := by
  apply BitVec.eq_of_getLsbD_eq
  intro k hk
  simp only [ctLegal, BitVec.getLsbD_append, BitVec.getLsbD_extractLsb']
  grind

/-- LEN of a legal entry is 0 to 24 (R230). -/
theorem ctLenField_ctLegal_le (w : Word) : ctLenField (ctLegal w) ≤ 24 := by
  rw [ctLenField, ctLegal_len]
  split
  case isTrue hlen => exact hlen
  case isFalse => decide

/-- A legal entry is stored as it is. -/
theorem ctLegal_idem (w : Word) : ctLegal (ctLegal w) = ctLegal w := by
  have hentry : ctLegal (ctLegal w) = 0#3 ++ (ctLegal w).extractLsb' 24 5 ++ (ctLegal w).extractLsb' 0 24 := by
    rw [ctLegal, if_pos (ctLenField_ctLegal_le w)]
  rw [hentry, ctLegal_len, ctLegal_code, ctLegal]

/-! ### The writes -/

theorem State.writeTarget_ram (s : State) (v : Word) {t : Target} (hram : t.isRam = true) :
    s.writeTarget v t = { s with ram := (s.writeTarget v t).ram } := by
  cases t
  case reg | reserved => cases hram
  all_goals rfl

/-- What a host writes to an element of a RAM while idle reads back as the element's view of it. -/
theorem State.hostWrite_element {s : State} (v : Word) (hcfg : s.cfg.Legal) (hidle : s.busy = false) {t : Target}
    (hram : t.isRam = true) (ht : t.InRange s.cfg) :
    s.hostWrite t.offset 4 v = s.writeTarget v t ∧
      ((s.hostWrite t.offset 4 v).hostRead t.offset 4).rdata = (s.writeTarget v t).readTarget t := by
  have hserved := served_offset hcfg hram ht
  have hwrite := State.hostWrite_of_idle v hidle hserved
  have hsame := s.writeTarget_ram v hram
  have hserved' : served (s.writeTarget v t).cfg t.offset 4 = some t := by rw [hsame]; exact hserved
  have hidle' : (s.writeTarget v t).busy = false := by rw [hsame]; exact hidle
  refine ⟨hwrite, ?_⟩
  rw [hwrite, State.hostRead_of_served hserved', hidle']
  rfl

theorem onlyRam_storeWords (s : State) (r : RamId) (i : Nat) (v : Word) :
    OnlyRam (wordsOf r i 1) s (s.storeWords r i [v]) := ⟨rfl, s.storeWords_frame r i [v]⟩

theorem onlyRam_store_halfBytes (s : State) (i : Nat) (h : Half) :
    OnlyRam (fun r x => r = .hist ∧ 2 * i ≤ x ∧ x < 2 * i + 2) s (s.store .hist (2 * i) (halfBytes h)) := by
  refine ⟨rfl, fun r x hout => ?_⟩
  rw [State.ramByte_store, dif_neg]
  simpa using hout

/-- Settles O56: each RAM's element takes its bytes of the word, and the read gives its view of them. -/
theorem ramWritesReadBack : Obligations.RamWritesReadBack := by
  intro s v hcfg hidle
  refine ⟨fun i hi => ?_, fun i hi => ?_, fun i hi => ?_, fun i hi => ?_, fun i hi => ?_, fun p hp k hk => ?_⟩
  · obtain ⟨hwrite, hread⟩ := State.hostWrite_element (t := .dmem i) v hcfg hidle rfl hi
    exact ⟨hread.trans (s.ramWord_storeWords_same ..), hwrite ▸ onlyRam_storeWords ..⟩
  · obtain ⟨hwrite, hread⟩ := State.hostWrite_element (t := .hist i) v hcfg hidle rfl hi
    refine ⟨hread.trans ?_, hwrite ▸ onlyRam_store_halfBytes ..⟩
    exact congrArg (fun h : Half => h.signExtend 32) (s.histEntry_store_same i _)
  · obtain ⟨hwrite, hread⟩ := State.hostWrite_element (t := .ola i) v hcfg hidle rfl hi
    exact ⟨hread.trans (s.ramWord_storeWords_same ..), hwrite ▸ onlyRam_storeWords ..⟩
  · obtain ⟨hwrite, hread⟩ := State.hostWrite_element (t := .clut i) v hcfg hidle rfl (Nat.lt_succ_of_le hi)
    exact ⟨hread.trans (s.ramWord_storeWords_same ..), hwrite ▸ onlyRam_storeWords ..⟩
  · obtain ⟨hwrite, hread⟩ := State.hostWrite_element (t := .elut i) v hcfg hidle rfl (Nat.lt_succ_of_le hi)
    exact ⟨hread.trans (s.ramWord_storeWords_same ..), hwrite ▸ onlyRam_storeWords ..⟩
  · obtain ⟨hwrite, hread⟩ := State.hostWrite_element (t := .ct p k) v hcfg hidle rfl ⟨hp, hk⟩
    refine ⟨hread.trans ?_, hwrite ▸ onlyRam_storeWords ..⟩
    have hword := s.ramWord_storeWords_same .ct (ctIndex p k) (ctLegal v)
    calc ctLegal ((s.storeWords .ct (ctIndex p k) [ctLegal v]).ramWord .ct (4 * ctIndex p k)) = ctLegal v := by
          rw [hword, ctLegal_idem]
      _ = _ := by rw [ctLegal_eq_and, ctLenField_eq]

end Sys2Proof.Machine
end

section
/-! PROOF. What a command can do, said once for all of them: the writes of a command stay inside the destinations that
R291 names, its other effects are SAT, DIVZ, SHIFTV, the results and the derived factors, and it ends by completing or
with an error (40_control.md R121, 60_exceptions.md R263). -/

namespace Sys2Proof.Machine

open Sys2Proof.Config (RamId)

/-! ### RAMs in canonical form -/

theorem State.RamsOk.store {s : State} (h : s.RamsOk) {r : RamId} {a : Nat} {bs : List Byte}
    (hfits : bs = [] ∨ a + bs.length ≤ ramSize s.cfg r) : (s.store r a bs).RamsOk := by
  intro r'
  obtain ⟨hwf, hwithin⟩ := h r'
  rw [State.store_ram, Rams.get_set, State.store_cfg]
  split
  case isTrue heq =>
    subst heq
    exact ⟨Memory.store_wf _ _ _ hwf, Memory.store_within _ _ _ _ hwithin hfits⟩
  case isFalse => exact ⟨hwf, hwithin⟩

theorem State.RamsOk.storeWords {s : State} (h : s.RamsOk) {r : RamId} {i : Nat} {ws : List Word}
    (hfits : ws.length = 0 ∨ 4 * (i + ws.length) ≤ ramSize s.cfg r) : (s.storeWords r i ws).RamsOk := by
  refine h.store (hfits.imp (fun hnil => ?_) fun hle => ?_)
  · rw [List.eq_nil_of_length_eq_zero hnil, List.flatMap_nil]
  · rw [flatMap_wordBytes_length]
    omega

theorem State.RamsOk.storeHist {s : State} (h : s.RamsOk) {hs : List Half} (hfits : hs.length ≤ s.cfg.nmax) :
    (s.storeHist hs).RamsOk := by
  refine h.store (.inr ?_)
  rw [flatMap_halfBytes_length, ramSize]
  omega

/-- A region of DMEM that passes the test of R123 exists. -/
theorem dmem_fits_of_passes {s : State} {base len k : Nat} (h : Passes s base len) (hk : k ≤ len) :
    k = 0 ∨ 4 * (base + k) ≤ ramSize s.cfg .dmem := by
  rw [ramSize]
  rcases h with h | h <;> omega

/-! ### Writes -/

/-- From s to u only bytes in `w` changed and SAT and DIVZ may have been set; the RAMs stay in canonical form. -/
structure Writes (w : RamId → Nat → Prop) (s u : State) : Prop where
  rest : u = { s with ram := u.ram, flags := { s.flags with sat := u.flags.sat, divz := u.flags.divz } }
  sat : s.flags.sat = true → u.flags.sat = true
  divz : s.flags.divz = true → u.flags.divz = true
  frame : RamsSameBut w s u
  ramsOk : s.RamsOk → u.RamsOk

theorem Writes.trans {w w' : RamId → Nat → Prop} {s u v : State} (h : Writes w s u) (h' : Writes w' u v) :
    Writes (fun r x => w r x ∨ w' r x) s v where
  rest := by
    have hrest := h'.rest
    rw [h.rest] at hrest
    exact hrest
  sat hs := h'.sat (h.sat hs)
  divz hs := h'.divz (h.divz hs)
  frame := h.frame.trans h'.frame
  ramsOk hs := h'.ramsOk (h.ramsOk hs)

theorem Writes.mono {w w' : RamId → Nat → Prop} {s u : State} (h : Writes w s u) (hsub : ∀ r x, w r x → w' r x) :
    Writes w' s u :=
  { h with frame := h.frame.mono hsub }

theorem writes_refl (w : RamId → Nat → Prop) (s : State) : Writes w s s :=
  ⟨rfl, id, id, fun _ _ _ => rfl, id⟩

theorem Writes.note {w : RamId → Nat → Prop} {s u : State} (h : Writes w s u) (sat divz : Bool) :
    Writes w s (u.note sat divz) where
  rest := by rw [h.rest]; rfl
  sat hs := by rw [State.note_flags, h.sat hs]; rfl
  divz hs := by rw [State.note_flags, h.divz hs]; rfl
  frame := h.frame
  ramsOk := h.ramsOk

theorem writes_storeWords (s : State) {r : RamId} {i n : Nat} {ws : List Word} (hlength : ws.length = n)
    (hfits : n = 0 ∨ 4 * (i + n) ≤ ramSize s.cfg r) : Writes (wordsOf r i n) s (s.storeWords r i ws) := by
  subst hlength
  exact ⟨rfl, id, id, s.storeWords_frame r i ws, fun hs => hs.storeWords hfits⟩

theorem writes_storeHist (s : State) {n : Nat} {hs : List Half} (hlength : hs.length = n) (hfits : n ≤ s.cfg.nmax) :
    Writes (histOf n) s (s.storeHist hs) := by
  subst hlength
  exact ⟨rfl, id, id, s.storeHist_frame hs, fun h => h.storeHist hfits⟩

theorem writes_saveHop (s : State) (zin : Bool) {n : Nat} (hn : n ≤ s.cfg.nmax) :
    Writes (histOf n) s (s.saveHop zin n) :=
  writes_storeHist s (by rw [List.length_map, inputHop_eq_vec, vec_length]) hn

/-- Each pass of the element loop writes one word of a region that exists. -/
theorem writes_elementLoop (f : State → Nat → Elem) (dst k i : Nat) (s : State)
    (hfits : k = 0 ∨ 4 * (dst + i + k) ≤ ramSize s.cfg .dmem) :
    Writes (wordsOf .dmem (dst + i) k) s (elementLoop f dst k i s) := by
  induction k generalizing i s with
  | zero => exact writes_refl _ s
  | succ k ih =>
    have hstore := writes_storeWords s (r := .dmem) (i := dst + i) (n := 1) (ws := [(f s i).word]) rfl (by omega)
    have hword := hstore.note (f s i).sat (f s i).divz
    have hrest := ih (i + 1) ((s.storeWords .dmem (dst + i) [(f s i).word]).note (f s i).sat (f s i).divz)
      (by simp only [State.note_cfg, State.storeWords_cfg]; omega)
    refine (hword.trans hrest).mono fun r x hx => ?_
    rcases hx with ⟨hr, hlo, hhi⟩ | ⟨hr, hlo, hhi⟩ <;> exact ⟨hr, by omega, by omega⟩

theorem writes_elementWise (f : State → Nat → Elem) {s : State} (hdst : Passes s s.dst s.count) :
    Writes (wordsOf .dmem s.dst s.count) s (elementWise f s) :=
  writes_elementLoop f s.dst s.count 0 s (dmem_fits_of_passes hdst le_rfl)

/-- The end of an inverse transform writes OLA and, without NOWR, the output samples. -/
theorem writes_emitBlock (s : State) {n : Nat} (y : Nat → Int) (nowr : Bool) (hn : n ≤ s.cfg.nmax)
    (hdst : nowr = false → Passes s s.dst n) :
    Writes (fun r x => (nowr = false ∧ wordsOf .dmem s.dst n r x) ∨ wordsOf .ola 0 n r x) s
      (s.emitBlock n (vec (n + n) y) nowr) := by
  have hola : Writes (wordsOf .ola 0 n) s (s.overlapped n y) :=
    (writes_storeWords s (vec_length ..) (.inr (by rw [ramSize]; omega))).note _ _
  rw [emitBlock_vec]
  cases nowr with
  | true => exact hola.mono fun _ _ => .inr
  | false =>
    have hout := writes_storeWords (s.overlapped n y) (r := .dmem) (i := s.dst) (ws := outputWords s n y)
      (vec_length ..) (dmem_fits_of_passes (hdst rfl) le_rfl)
    exact (hola.trans hout).mono fun _ _ => Or.symm ∘ Or.imp_right fun hx => ⟨rfl, hx⟩

end Sys2Proof.Machine
end

section
/-! PROOF. The end of every command: `exec_commandEnd` says what exec can answer, and the rules of all commands are read
off it. -/

namespace Sys2Proof.Machine

open Sys2Proof.Config (RamId)

/-- What command i may have changed before it ends. -/
structure CommandEffect (i : Instr) (s u : State) : Prop where
  rest : u = { s with
    ram := u.ram, flags := { s.flags with sat := u.flags.sat, divz := u.flags.divz }, shiftv := u.shiftv,
    res := u.res, quant := u.quant, scl := u.scl }
  sat : s.flags.sat = true → u.flags.sat = true
  divz : s.flags.divz = true → u.flags.divz = true
  frame : RamsSameBut (cancelledDest s i) s u
  ramsOk : s.RamsOk → u.RamsOk
  quant : u.quant = s.quant ∨ u.quant.Coherent
  scl : u.scl = s.scl ∨ u.scl.Coherent

/-- A command completes, is refused by a check and changes nothing, or, as EC_DECODE alone, ends with a format error
after it wrote symbols and results (R263). -/
inductive CommandEnd (i : Instr) (s : State) : State → Prop where
  | completed {u : State} (h : CommandEffect i s u) : CommandEnd i s u.complete
  | refused (c : ErrCode) : CommandEnd i s (s.raiseError c)
  | undecoded {u : State} {p : Nat} {c : ErrCode} (hi : i = .ecDecode p) (hc : c = .fmtTruncated ∨ c = .fmtBadcode)
      (h : CommandEffect i s u) (hrest : u = { s with ram := u.ram, res := u.res }) : CommandEnd i s (u.raiseError c)

/-- The outcome is one of the ends of command i. -/
def Ends (i : Instr) (s : State) (o : Host.Outcome State Fault Refusal) : Prop := ∃ t, o = .next t ∧ CommandEnd i s t

/-! ### Building an end -/

theorem Writes.commandEffect {w : RamId → Nat → Prop} {i : Instr} {s u : State} (h : Writes w s u)
    (hdest : ∀ r x, w r x → cancelledDest s i r x) : CommandEffect i s u where
  rest := by rw [h.rest]
  sat := h.sat
  divz := h.divz
  frame := h.frame.mono hdest
  ramsOk := h.ramsOk
  quant := .inl (by rw [h.rest])
  scl := .inl (by rw [h.rest])

theorem CommandEffect.ends {i : Instr} {s u : State} (h : CommandEffect i s u) : Ends i s (finish u) :=
  ⟨_, rfl, .completed h⟩

theorem ends_fail (i : Instr) (s : State) (c : ErrCode) : Ends i s (fail c s) := ⟨_, rfl, .refused c⟩

/-- A check refuses the command or leaves it to what follows. -/
theorem ends_check {i : Instr} {s : State} {c : ErrCode} {p : Prop} [Decidable p]
    {o : Host.Outcome State Fault Refusal} (h : ¬p → Ends i s o) : Ends i s (if p then fail c s else o) := by
  split
  case isTrue => exact ends_fail i s c
  case isFalse hp => exact h hp

/-- A check that is a Boolean test to be passed. -/
theorem ends_test {i : Instr} {s : State} {c : ErrCode} {b : Bool} {o : Host.Outcome State Fault Refusal}
    (h : b = true → Ends i s o) : Ends i s (if !b then fail c s else o) :=
  ends_check fun hp => h (by simpa using hp)

/-- A one-source element-wise command after its checks (R180, R200). -/
theorem ends_elementWise {i : Instr} {s : State} (f : State → Nat → Elem)
    (hdest : cancelledDest s i = wordsOf .dmem s.dst s.count) :
    Ends i s (if !s.unaryRegionsOk then fail .addrRange s else finish (elementWise f s)) :=
  ends_test fun hregions => ((writes_elementWise f (s.unaryRegionsOk_iff.mp hregions).2).commandEffect
    fun _ _ hx => hdest ▸ hx).ends

/-! ### The commands -/

theorem xfReset_ends (s : State) : Ends .xfReset s (execXfReset s) := by
  have hhist := writes_storeHist s (hs := List.replicate s.cfg.nmax 0) (List.length_replicate ..) le_rfl
  have hola := writes_storeWords (s.storeHist (List.replicate s.cfg.nmax 0)) (r := .ola) (i := 0)
    (ws := List.replicate s.cfg.nmax 0) (List.length_replicate ..) (.inr (by simp [ramSize]))
  exact CommandEffect.ends ((hhist.trans hola).commandEffect fun _ _ => id)

/-- The end of a forward transform that passed its checks (R146, R152). -/
theorem forward_effect {i : Instr} {s : State} (zin : Bool) {n len : Nat} {row : List Int} (hrow : row.length = len)
    (hn : n ≤ s.cfg.nmax) (hdst : Passes s s.dst len)
    (hdest : ∀ r x, wordsOf .dmem s.dst len r x ∨ histOf n r x → cancelledDest s i r x) :
    CommandEffect i s ((s.saveHop zin n).storeWords .dmem s.dst (row.map bits32)) := by
  have hdmem := writes_storeWords (s.saveHop zin n) (r := .dmem) (i := s.dst) (ws := row.map bits32)
    ((List.length_map _).trans hrow) (dmem_fits_of_passes hdst le_rfl)
  exact ((writes_saveHop s zin hn).trans hdmem).commandEffect fun r x hx => hdest r x hx.symm

theorem mdctCoeffs_length (n : Nat) (x : List Int) : (mdctCoeffs n x).length = n := vec_length ..

theorem stftRow_length (n : Nat) (x : List Int) : (stftRow n x).length = 2 * n + 2 := by
  rw [stftRow, flatMap_pair_eq_vec, vec_length, Nat.mul_succ]

theorem mdctFwd_ends (zin : Bool) (s : State) : Ends (.mdctFwd zin) s (execMdctFwd zin s) := by
  refine ends_test fun hhop => ends_test fun hregions => CommandEffect.ends ?_
  obtain ⟨-, -, hn⟩ := s.mdctHopOk_iff.mp hhop
  obtain ⟨-, hdst⟩ := (s.forwardRegionsOk_iff ..).mp hregions
  exact forward_effect zin (mdctCoeffs_length ..) hn hdst fun _ _ => id

theorem stftFwd_ends (zin : Bool) (s : State) : Ends (.stftFwd zin) s (execStftFwd zin s) := by
  refine ends_test fun hhop => ends_test fun hregions => CommandEffect.ends ?_
  obtain ⟨-, hn⟩ := s.stftHopOk_iff.mp hhop
  obtain ⟨-, hdst⟩ := (s.forwardRegionsOk_iff ..).mp hregions
  exact forward_effect zin (stftRow_length ..) hn hdst fun _ _ => id

theorem mdctInv_ends (nowr : Bool) (s : State) : Ends (.mdctInv nowr) s (execMdctInv nowr s) := by
  refine ends_test fun hhop => ends_test fun hregions => CommandEffect.ends ?_
  obtain ⟨heven, -, hn⟩ := s.mdctHopOk_iff.mp hhop
  obtain ⟨-, hdst⟩ := (s.inverseRegionsOk_iff ..).mp hregions
  rw [mdctBlock_inputCoeffs s heven]
  exact (writes_emitBlock s _ nowr hn hdst).commandEffect fun _ _ => id

theorem stftInv_ends (nowr : Bool) (s : State) : Ends (.stftInv nowr) s (execStftInv nowr s) := by
  refine ends_test fun hhop => ends_test fun hregions => CommandEffect.ends ?_
  obtain ⟨-, hn⟩ := s.stftHopOk_iff.mp hhop
  obtain ⟨-, hdst⟩ := (s.inverseRegionsOk_iff ..).mp hregions
  rw [stftBlock_inputBins s]
  exact (writes_emitBlock s _ nowr hn hdst).commandEffect fun _ _ => id

theorem qConfig_ends (s : State) : Ends .qConfig s (exec .qConfig s) := by
  rw [exec_qConfig]
  refine ends_test fun hlevels => ends_test fun hlt => CommandEffect.ends ?_
  have hlevels : 2 ≤ zext s.quant.qLevels ∧ zext s.quant.qLevels ≤ 65536 := by simpa using hlevels
  have hlt := of_decide_eq_true hlt
  obtain ⟨hrcp, hstep⟩ := State.withQuantFactors_factors hlevels hlt
  exact ⟨rfl, id, id, fun _ _ _ => rfl, id, .inr fun _ => ⟨hlevels.1, hlevels.2, hlt, hrcp, hstep⟩, .inl rfl⟩

theorem sConfig_ends (s : State) : Ends .sConfig s (exec .sConfig s) := by
  rw [exec_sConfig]
  refine ends_check fun hne => CommandEffect.ends ?_
  exact ⟨rfl, id, id, fun _ _ _ => rfl, id, .inl rfl, .inr fun _ => ⟨hne, State.sext_withScaleFactor_k hne⟩⟩

theorem mupd_ends (s : State) : Ends .mupd s (execMupd s) := by
  refine ends_test fun hregions => ends_check fun _ => CommandEffect.ends ?_
  simp only [Bool.and_eq_true, s.regionOk_iff] at hregions
  exact (writes_elementWise mupdElem hregions.2).commandEffect fun _ _ => id

theorem shift_ends (s : State) : Ends .shift s (execShift s) := by
  refine ends_check fun _ => ends_test fun hregions => CommandEffect.ends ?_
  have h := writes_elementWise (shiftElem s.shiftScalar) (s.unaryRegionsOk_iff.mp hregions).2
  exact {
    rest := by rw [h.rest]
    sat := h.sat
    divz := h.divz
    frame := h.frame
    ramsOk := h.ramsOk
    quant := .inl (by rw [h.rest])
    scl := .inl (by rw [h.rest]) }

/-- The least effect of EC_ENCODE and EC_DECODE: words of DMEM and the results. -/
theorem Writes.setResults {w : RamId → Nat → Prop} {i : Instr} {s u : State} (h : Writes w s u)
    (hdest : ∀ r x, w r x → cancelledDest s i r x) (res0 res1 : Nat) : CommandEffect i s (u.setResults res0 res1) where
  rest := by rw [h.rest]; rfl
  sat := h.sat
  divz := h.divz
  frame := h.frame.mono hdest
  ramsOk := h.ramsOk
  quant := .inl (by rw [h.rest]; rfl)
  scl := .inl (by rw [h.rest]; rfl)

theorem ecEncode_ends (p : Nat) (s : State) : Ends (.ecEncode p) s (execEcEncode p s) := by
  refine ends_test fun hreg => ends_test fun hregions => ends_check fun _ => ?_
  obtain ⟨hsrc, hdst⟩ := (s.regionsOk_iff ..).mp hregions
  by_cases hcodes : ∀ i < s.gridSize, symbolAt s i < s.cfg.nsym ∧ s.codeLen p (symbolAt s i) ≠ 0
  case neg =>
    rw [State.codedLength_eq_none hcodes]
    exact ends_fail ..
  case pos =>
    rw [State.codedLength_eq_bitsBefore hcodes]
    refine ends_check fun hfits => CommandEffect.ends ?_
    have hwords : (streamWords (s.codedBits p s.gridSize)).length = ((bitsBefore s p s.gridSize + 7) / 8 + 3) / 4 := by
      rw [streamWords_length, s.codedBits_length]
    have hcap : ((bitsBefore s p s.gridSize + 7) / 8 + 3) / 4 ≤ ceilDiv s.cap 4 := by
      simp only [ceilDiv] at hfits ⊢
      omega
    have hwrites := writes_storeWords s (r := .dmem) (i := s.dst) hwords (dmem_fits_of_passes hdst hcap)
    obtain ⟨hprof, -⟩ := (s.registered_iff p).mp hreg
    exact hwrites.setResults (i := .ecEncode p) (fun _ _ hx => ⟨hprof, hsrc, hcodes, hx⟩) _ _

theorem State.decodeGrid_symbols_length_le (s : State) (p k pos : Nat) :
    (s.decodeGrid p k pos).symbols.length ≤ k := by
  induction k generalizing pos with
  | zero => exact le_rfl
  | succ k ih =>
    rw [State.decodeGrid]
    cases s.decodeSymbol p 24 0 0 pos with
    | found t pos' => exact Nat.succ_le_succ (ih pos')
    | truncated | badCode => exact Nat.zero_le _

/-- Decoding ends with no error but R234's two. -/
theorem State.decodeGrid_error (s : State) (p k pos : Nat) {c : ErrCode}
    (h : (s.decodeGrid p k pos).error = some c) : c = .fmtTruncated ∨ c = .fmtBadcode := by
  induction k generalizing pos with
  | zero => cases h
  | succ k ih =>
    rw [State.decodeGrid] at h
    cases hsymbol : s.decodeSymbol p 24 0 0 pos with
    | found t pos' =>
      rw [hsymbol] at h
      exact ih pos' h
    | truncated =>
      rw [hsymbol] at h
      exact .inl (Option.some.inj h).symm
    | badCode =>
      rw [hsymbol] at h
      exact .inr (Option.some.inj h).symm

theorem ecDecode_ends (p : Nat) (s : State) : Ends (.ecDecode p) s (exec (.ecDecode p) s) := by
  rw [exec_ecDecode]
  refine ends_test fun _ => ends_test fun hregions => ends_check fun _ => ?_
  obtain ⟨-, hdst⟩ := (s.regionsOk_iff ..).mp hregions
  have hlength := s.decodeGrid_symbols_length_le p s.gridSize 0
  have hwrites := writes_storeWords s (r := .dmem) (i := s.dst)
    (ws := (s.decodeGrid p s.gridSize 0).symbols.map (BitVec.ofNat 32)) (List.length_map _)
    (dmem_fits_of_passes hdst hlength)
  have heffect : CommandEffect (.ecDecode p) s
      (s.decoded (s.decodeGrid p s.gridSize 0).symbols (s.decodeGrid p s.gridSize 0).pos) :=
    hwrites.setResults (i := .ecDecode p) (fun _ _ ⟨hr, hlo, hhi⟩ => ⟨hr, hlo, by omega⟩) _ _
  rw [DecodeEnd.outcome]
  cases herror : (s.decodeGrid p s.gridSize 0).error with
  | none => exact heffect.ends
  | some c => exact ⟨_, rfl, .undecoded rfl (s.decodeGrid_error p _ _ herror) heffect rfl⟩

/-- Every command answers a state, which is one of its ends. -/
theorem exec_commandEnd (i : Instr) (s : State) : Ends i s (exec i s) := by
  cases i with
  | nop => exact ((writes_refl noBytes s).commandEffect fun _ _ hx => hx.elim).ends
  | xfReset => exact xfReset_ends s
  | mdctFwd zin => exact mdctFwd_ends zin s
  | mdctInv nowr => exact mdctInv_ends nowr s
  | stftFwd zin => exact stftFwd_ends zin s
  | stftInv nowr => exact stftInv_ends nowr s
  | qConfig => exact qConfig_ends s
  | quant => exact ends_test fun _ => ends_elementWise quantElem rfl
  | dequant => exact ends_test fun _ => ends_elementWise dequantElem rfl
  | compand => exact ends_elementWise compandElem rfl
  | expand => exact ends_elementWise expandElem rfl
  | sConfig => exact sConfig_ends s
  | scale => exact ends_test fun _ => ends_elementWise scaleElem rfl
  | recip => exact ends_elementWise recipElem rfl
  | mupd => exact mupd_ends s
  | shift => exact shift_ends s
  | unshift => exact ends_elementWise unshiftElem rfl
  | ecEncode p => exact ecEncode_ends p s
  | ecDecode p => exact ecDecode_ends p s

theorem commandEnd_of_exec {i : Instr} {s t : State} (h : exec i s = .next t) : CommandEnd i s t := by
  obtain ⟨t', ht', hend⟩ := exec_commandEnd i s
  rw [h] at ht'
  exact Host.Outcome.next.inj ht' ▸ hend

end Sys2Proof.Machine
end

section
/-! PROOF. The destinations of a cancelled command (70_reset_and_hazards.md R291): the model's three lengths name the bytes
that the statements write out for each command, and a soft reset draws a free value for each of them that exists. -/

namespace Sys2Proof.Machine

open Sys2Proof.Config (RamId)

/-! ### What a command writes -/

/-- Every end leaves an effect of the command, none where a check refused it. -/
theorem CommandEnd.exists_effect {i : Instr} {s t : State} (h : CommandEnd i s t) :
    ∃ u, CommandEffect i s u ∧ (t = u.complete ∨ ∃ c, t = u.raiseError c) := by
  cases h with
  | completed heffect => exact ⟨_, heffect, .inl rfl⟩
  | refused c => exact ⟨s, (writes_refl noBytes s).commandEffect fun _ _ hx => hx.elim, .inr ⟨c, rfl⟩⟩
  | undecoded _ _ heffect _ => exact ⟨_, heffect, .inr ⟨_, rfl⟩⟩

/-- No command writes outside the destinations that R291 names. -/
theorem CommandEnd.frame {i : Instr} {s t : State} (h : CommandEnd i s t) : RamsSameBut (cancelledDest s i) s t := by
  obtain ⟨u, heffect, rfl | ⟨c, rfl⟩⟩ := h.exists_effect <;> exact heffect.frame

/-! ### The destinations -/

theorem not_wordsOf_zero (ram : RamId) (base : Nat) (r : RamId) (x : Nat) : ¬wordsOf ram base 0 r x := by
  rintro ⟨-, hlo, hhi⟩
  omega

theorem not_histOf_zero (r : RamId) (x : Nat) : ¬histOf 0 r x := fun h => Nat.not_lt_zero x h.2

/-- NOWR = 1 is a region of no words. -/
theorem wordsOf_nowr (nowr : Bool) (base n : Nat) (r : RamId) (x : Nat) :
    wordsOf .dmem base (if nowr then 0 else n) r x ↔ nowr = false ∧ wordsOf .dmem base n r x := by
  cases nowr <;> simp [not_wordsOf_zero]

/-- R233 defines the nwords of a stream: the profile exists, the source region passes, every symbol has a code. -/
def DefinesStream (s : State) (p : Nat) : Prop :=
  p < s.cfg.nprof ∧ Passes s s.src0 s.gridSize ∧
    ∀ j < s.gridSize, symbolAt s j < s.cfg.nsym ∧ s.codeLen p (symbolAt s j) ≠ 0

theorem State.destRegion_of_definesStream {s : State} {p : Nat} (h : DefinesStream s p) :
    s.destRegion (.ecEncode p) = (s.dst, ((bitsBefore s p s.gridSize + 7) / 8 + 3) / 4) := by
  obtain ⟨hprof, hsrc, hcodes⟩ := h
  simp only [State.destRegion, hprof, (s.regionOk_iff ..).mpr hsrc, State.codedLength_eq_bitsBefore hcodes]
  rfl

theorem State.destRegion_of_not_definesStream {s : State} {p : Nat} (h : ¬DefinesStream s p) :
    s.destRegion (.ecEncode p) = (s.dst, 0) := by
  rw [State.destRegion]
  split
  case isFalse => rfl
  case isTrue hchecks =>
    rw [Bool.and_eq_true, decide_eq_true_eq, s.regionOk_iff] at hchecks
    rw [State.codedLength_eq_none fun hcodes => h ⟨hchecks.1, hchecks.2, hcodes⟩]

/-- EC_ENCODE's destination is the stream's words, where they are defined. -/
theorem State.wordsOf_destRegion_ecEncode (s : State) (p : Nat) (r : RamId) (x : Nat) :
    wordsOf .dmem (s.destRegion (.ecEncode p)).1 (s.destRegion (.ecEncode p)).2 r x ↔
      cancelledDest s (.ecEncode p) r x := by
  by_cases h : DefinesStream s p
  · rw [State.destRegion_of_definesStream h]
    exact ⟨fun hx => ⟨h.1, h.2.1, h.2.2, hx⟩, fun hx => hx.2.2.2⟩
  · rw [State.destRegion_of_not_definesStream h]
    exact iff_of_false (not_wordsOf_zero _ _ _ _) fun hx => h ⟨hx.1, hx.2.1, hx.2.2.1⟩

theorem cancelledDest_iff (s : State) (i : Instr) (r : RamId) (x : Nat) :
    cancelledDest s i r x ↔ wordsOf .dmem (s.destRegion i).1 (s.destRegion i).2 r x ∨ histOf (s.destHist i) r x ∨
      wordsOf .ola 0 (s.destOla i) r x := by
  cases i with
  | ecEncode p =>
    rw [s.wordsOf_destRegion_ecEncode]
    simp only [State.destHist, State.destOla, not_histOf_zero, not_wordsOf_zero, or_false]
  | _ =>
    simp only [cancelledDest, State.destRegion, State.destHist, State.destOla, wordsOf_nowr, not_histOf_zero,
      not_wordsOf_zero, or_false, false_or]

/-- No destination lies in CLUT, ELUT or CT. -/
theorem cancelledDest_ram {s : State} {i : Instr} {r : RamId} {x : Nat} (h : cancelledDest s i r x) :
    r = .dmem ∨ r = .hist ∨ r = .ola :=
  ((cancelledDest_iff s i r x).mp h).imp And.left (Or.imp And.left And.left)

/-! ### The free values -/

/-- A byte after a draw for a stretch of a RAM. -/
theorem State.ramByte_scramble (s : State) (r r' : RamId) (a len x : Nat) :
    (s.scramble r a len).ramByte r' x =
      if r' = r ∧ a ≤ x ∧ x < a + len then Config.freeByte (s.draws + (x - a)) else s.ramByte r' x := by
  have hstore := s.ramByte_store r r' a x ((List.range len).map fun k => Config.freeByte (s.draws + k))
  simp only [List.length_map, List.length_range, List.getElem_map, List.getElem_range, dite_eq_ite] at hstore
  exact hstore

/-- The stretches that a cancelled command draws: the part of its DMEM region that exists, HIST's and OLA's entries. -/
theorem State.cancelCommand_eq (i : Instr) (s : State) :
    s.cancelCommand i =
      ((s.scramble .dmem (4 * (s.destRegion i).1)
          (4 * min (s.destRegion i).2 (s.cfg.dmemWords - (s.destRegion i).1))).scramble .hist 0
        (2 * min (s.destHist i) s.cfg.nmax)).scramble .ola 0 (4 * min (s.destOla i) s.cfg.nmax) := rfl

theorem State.cancelCommand_frame (i : Instr) (s : State) : RamsSameBut (cancelledDest s i) s (s.cancelCommand i) := by
  intro r x hout
  rw [cancelledDest_iff] at hout
  simp only [wordsOf, histOf, not_or, not_and] at hout
  obtain ⟨hdmem, hhist, hola⟩ := hout
  rw [State.cancelCommand_eq, State.ramByte_scramble, if_neg, State.ramByte_scramble, if_neg, State.ramByte_scramble,
    if_neg]
  · rintro ⟨hr, hlo, hhi⟩
    have := hdmem hr (by omega)
    omega
  · rintro ⟨hr, -, hhi⟩
    have := hhist hr
    omega
  · rintro ⟨hr, -, hhi⟩
    have := hola hr (by omega)
    omega

/-- Every byte of the destinations that exists holds one of the values drawn. -/
theorem State.cancelCommand_drawn (i : Instr) (s : State) {r : RamId} {x : Nat} (hdest : cancelledDest s i r x)
    (hexists : x < ramSize s.cfg r) :
    ∃ k, s.draws ≤ k ∧ k < (s.cancelCommand i).draws ∧ (s.cancelCommand i).ramByte r x = Config.freeByte k := by
  have hdraws : (s.cancelCommand i).draws =
      s.draws + 4 * min (s.destRegion i).2 (s.cfg.dmemWords - (s.destRegion i).1)
        + 2 * min (s.destHist i) s.cfg.nmax + 4 * min (s.destOla i) s.cfg.nmax := rfl
  rw [hdraws, State.cancelCommand_eq]
  rcases (cancelledDest_iff s i r x).mp hdest with ⟨rfl, hlo, hhi⟩ | ⟨rfl, hhi⟩ | ⟨rfl, hlo, hhi⟩
  · rw [ramSize] at hexists
    rw [State.ramByte_scramble, if_neg (by simp), State.ramByte_scramble, if_neg (by simp), State.ramByte_scramble,
      if_pos ⟨rfl, hlo, by omega⟩]
    exact ⟨_, by omega, by omega, rfl⟩
  · rw [ramSize] at hexists
    rw [State.ramByte_scramble, if_neg (by simp), State.ramByte_scramble, if_pos ⟨rfl, by omega, by omega⟩]
    exact ⟨_, by simp only [State.scramble_draws]; omega, by simp only [State.scramble_draws]; omega, rfl⟩
  · rw [ramSize] at hexists
    rw [State.ramByte_scramble, if_pos ⟨rfl, by omega, by omega⟩]
    exact ⟨_, by simp only [State.scramble_draws]; omega, by simp only [State.scramble_draws]; omega, rfl⟩

/-! ### The soft reset -/

theorem State.cancelInflight_of_decode_ok {s : State} {w : Word} {i : Instr} (hw : s.inflight = some w)
    (h : decode w = .ok i) : s.cancelInflight = s.cancelCommand i := by
  simp only [State.cancelInflight, hw, h]

theorem State.cancelInflight_of_decode_error {s : State} {w : Word} {e : DecodeError} (hw : s.inflight = some w)
    (h : decode w = .error e) : s.cancelInflight = s := by
  simp only [State.cancelInflight, hw, h]

/-- From s to u only RAM bytes and the draw counter changed; the RAMs stay in canonical form. -/
structure DrawsRam (s u : State) : Prop where
  rest : u = { s with ram := u.ram, draws := u.draws }
  ramsOk : s.RamsOk → u.RamsOk

theorem drawsRam_refl (s : State) : DrawsRam s s := ⟨rfl, id⟩

theorem DrawsRam.trans {s u v : State} (h : DrawsRam s u) (h' : DrawsRam u v) : DrawsRam s v where
  rest := by
    have hrest := h'.rest
    rw [h.rest] at hrest
    exact hrest
  ramsOk hs := h'.ramsOk (h.ramsOk hs)

theorem drawsRam_scramble (s : State) {r : RamId} {a len : Nat} (hfits : len = 0 ∨ a + len ≤ ramSize s.cfg r) :
    DrawsRam s (s.scramble r a len) where
  rest := rfl
  ramsOk hs := by
    have hstore := hs.store (bs := (List.range len).map fun k => Config.freeByte (s.draws + k))
      (hfits.imp (fun hnil => by rw [hnil]; rfl) fun hle => by simpa using hle)
    exact hstore

theorem drawsRam_cancelCommand (i : Instr) (s : State) : DrawsRam s (s.cancelCommand i) := by
  rw [State.cancelCommand_eq]
  refine (drawsRam_scramble s ?_).trans ((drawsRam_scramble _ ?_).trans (drawsRam_scramble _ ?_))
  all_goals
    simp only [ramSize, State.scramble_cfg]
    omega

/-- Cancelling writes RAM bytes and draws values. -/
theorem drawsRam_cancelInflight (s : State) : DrawsRam s s.cancelInflight := by
  rcases Option.eq_none_or_eq_some s.inflight with hw | ⟨w, hw⟩
  · rw [State.cancelInflight_of_idle (s.inflight_eq_none_iff.mp hw)]
    exact drawsRam_refl s
  · cases hdecode : decode w with
    | error e =>
      rw [State.cancelInflight_of_decode_error hw hdecode]
      exact drawsRam_refl s
    | ok i =>
      rw [State.cancelInflight_of_decode_ok hw hdecode]
      exact drawsRam_cancelCommand i s

/-- A soft reset leaves the registers of a reset and the cancelled RAMs. -/
theorem State.softReset_rest (s : State) :
    s.softReset = { s.resetRegisters with ram := s.cancelInflight.ram, draws := s.cancelInflight.draws } := by
  rw [State.softReset, (drawsRam_cancelInflight s).rest]
  rfl

theorem State.softReset_ramByte (s : State) (r : RamId) (x : Nat) :
    s.softReset.ramByte r x = s.cancelInflight.ramByte r x := rfl

theorem State.softReset_draws (s : State) : s.softReset.draws = s.cancelInflight.draws := rfl

/-- Settles O15: the registers are reset, the destinations that exist are drawn, and the rest of RAM is left; the
command itself writes inside the same destinations. -/
theorem softResetCancelsCommand : Obligations.SoftResetCancelsCommand := by
  intro s w hw
  have hrest := s.softReset_rest
  refine ⟨fun _ => s.softReset_readReg, rfl, by rw [hrest]; rfl, by rw [hrest]; rfl, by rw [hrest]; rfl,
    by rw [hrest]; rfl, fun e hdecode => ?_, fun i hdecode => ?_⟩
  · have hcancel := State.cancelInflight_of_decode_error hw hdecode
    exact ⟨fun r x _ => by rw [State.softReset_ramByte, hcancel], by rw [State.softReset_draws, hcancel]⟩
  · have hcancel := State.cancelInflight_of_decode_ok hw hdecode
    refine ⟨fun r x hout => ?_, fun r x hdest hexists => ?_, fun t hexec => (commandEnd_of_exec hexec).frame⟩
    · rw [State.softReset_ramByte, hcancel]
      exact s.cancelCommand_frame i r x hout
    · rw [State.softReset_ramByte, State.softReset_draws, hcancel]
      exact s.cancelCommand_drawn i hdest hexists

end Sys2Proof.Machine
end

section
/-! PROOF. The rules of all commands, read off a command's ends: errors are precise (R263), and the host's state is not a
command's to write. -/

namespace Sys2Proof.Machine

open Sys2Proof.Config (RamId)

theorem State.raiseError_eq_errorState (c : ErrCode) (s : State) : s.raiseError c = errorState c.code s :=
  Host.Outcome.next.inj (fail_eq_errorState c s)

theorem ErrCode.code_range (c : ErrCode) : 0x01 ≤ c.code ∧ c.code ≤ 0x0D := by cases c <;> decide

section
variable {i : Instr} {s u : State} (h : CommandEffect i s u)
include h

theorem CommandEffect.errinfo : u.errinfo = s.errinfo := by rw [h.rest]

theorem CommandEffect.agenda : u.agenda = s.agenda := by rw [h.rest]

theorem CommandEffect.flags : u.flags = { s.flags with sat := u.flags.sat, divz := u.flags.divz } :=
  congrArg State.flags h.rest

theorem CommandEffect.hostState :
    u.ops = s.ops ∧ u.cmd = s.cmd ∧ u.ie = s.ie ∧ u.profv = s.profv ∧ u.cfg = s.cfg := by
  rw [h.rest]
  exact ⟨rfl, rfl, rfl, rfl, rfl⟩

/-- CLUT, ELUT and CT are no destinations. -/
theorem CommandEffect.tables (x : Nat) :
    u.ramByte .clut x = s.ramByte .clut x ∧ u.ramByte .elut x = s.ramByte .elut x ∧
      u.ramByte .ct x = s.ramByte .ct x :=
  ⟨h.frame _ _ fun hdest => by simpa using cancelledDest_ram hdest,
    h.frame _ _ fun hdest => by simpa using cancelledDest_ram hdest,
    h.frame _ _ fun hdest => by simpa using cancelledDest_ram hdest⟩

end

theorem CommandEnd.inflight {i : Instr} {s t : State} (h : CommandEnd i s t) : t.inflight = none := by
  cases h <;> rfl

theorem CommandEnd.agenda {i : Instr} {s t : State} (h : CommandEnd i s t) : t.agenda = s.agenda := by
  obtain ⟨u, heffect, rfl | ⟨c, rfl⟩⟩ := h.exists_effect <;> exact heffect.agenda

/-- Settles O43: of the three ends only EC_DECODE's format error is no plain `errorState`. -/
theorem errorsArePrecise : Obligations.ErrorsArePrecise := by
  intro i s
  obtain ⟨t, hexec, hend⟩ := exec_commandEnd i s
  refine ⟨t, hexec, hend.inflight, ?_⟩
  cases hend with
  | completed heffect => exact .inl ⟨rfl, by rw [State.complete_flags, heffect.flags], heffect.errinfo⟩
  | refused c => exact .inr ⟨c.code, c.code_range.1, c.code_range.2, .inl (s.raiseError_eq_errorState c)⟩
  | @undecoded u p c hi hc heffect hrest =>
    subst hi
    have hcode : c.code = 0x0C ∨ c.code = 0x0D := hc.imp (congrArg ErrCode.code) (congrArg ErrCode.code)
    refine .inr ⟨c.code, c.code_range.1, c.code_range.2, .inr ⟨⟨p, rfl⟩, hcode, ?_, heffect.frame⟩⟩
    rw [u.raiseError_eq_errorState c, hrest]
    rfl

/-- Settles O44: an effect is outside the host's state, and either end only sets a flag. -/
theorem commandsNeverWriteHostState : Obligations.CommandsNeverWriteHostState := by
  intro i s t hexec
  obtain ⟨u, heffect, hend⟩ := (commandEnd_of_exec hexec).exists_effect
  obtain ⟨hops, hcmd, hie, hprofv, hcfg⟩ := heffect.hostState
  have hbuserr : u.flags.buserr = s.flags.buserr := by rw [heffect.flags]
  have hhosterr : u.flags.hosterr = s.flags.hosterr := by rw [heffect.flags]
  have hdone : u.flags.done = s.flags.done := by rw [heffect.flags]
  have herr : u.flags.err = s.flags.err := by rw [heffect.flags]
  rcases hend with rfl | ⟨c, rfl⟩
  · exact ⟨hops, hcmd, hie, hprofv, hcfg, heffect.tables, hbuserr, hhosterr, fun _ => rfl, herr.trans, heffect.sat,
      heffect.divz⟩
  · exact ⟨hops, hcmd, hie, hprofv, hcfg, heffect.tables, hbuserr, hhosterr, hdone.trans, fun _ => rfl, heffect.sat,
      heffect.divz⟩

end Sys2Proof.Machine
end

section
/-! PROOF. Every step answers (70_reset_and_hazards.md R300) and takes its event off the agenda, so every run ends
(40_control.md R130). -/

namespace Sys2Proof.Machine

/-- The sequencer's command ends as a command does; a word that decodes to none ends as a refused one. -/
theorem runWord_ends (w : Word) (s : State) : ∃ i, Ends i s (runWord w s) := by
  rw [runWord]
  cases decode w with
  | ok i => exact ⟨i, exec_commandEnd i s⟩
  | error e => exact ⟨.nop, ends_fail ..⟩

theorem sequencerTurn_answers (s : State) :
    ∃ t, sequencerTurn s = .next t ∧ t.busy = false ∧ t.agenda = s.agenda := by
  cases hw : s.inflight with
  | none => exact ⟨s, by rw [sequencerTurn, hw], by rw [State.busy, hw]; rfl, rfl⟩
  | some w =>
    obtain ⟨i, t, hrun, hend⟩ := runWord_ends w s
    exact ⟨t, by rw [sequencerTurn, hw]; exact hrun, by rw [State.busy, hend.inflight]; rfl, hend.agenda⟩

/-! ### The host's side -/

theorem State.softReset_agenda (s : State) : s.softReset.agenda = s.agenda := by rw [s.softReset_rest]; rfl

theorem State.writeCtrl_agenda (s : State) (v : Word) : (s.writeCtrl v).agenda = s.agenda := by
  rw [State.writeCtrl]
  split
  · exact s.softReset_agenda
  · rfl

theorem State.writeTarget_agenda (s : State) (v : Word) (t : Target) : (s.writeTarget v t).agenda = s.agenda := by
  cases t with
  | reg r =>
    cases r
    case ctrl => exact s.writeCtrl_agenda v
    all_goals rfl
  | _ => rfl

/-- The three ways a host write goes: flags alone, CTRL, or the store of an idle AMB. -/
theorem State.hostWrite_cases (s : State) (a width : Nat) (v : Word) :
    (∃ f, s.hostWrite a width v = { s with flags := f }) ∨ s.hostWrite a width v = s.writeCtrl v ∨
      ∃ t, t.InRange s.cfg ∧ s.hostWrite a width v = s.writeTarget v t := by
  cases hserved : served s.cfg a width with
  | none => exact .inl ⟨_, State.hostWrite_of_unserved v hserved⟩
  | some t =>
    cases hbusy : s.busy with
    | false => exact .inr (.inr ⟨t, target_inRange (target_of_served hserved), State.hostWrite_of_idle v hbusy hserved⟩)
    | true =>
      by_cases hctrl : t = .reg .ctrl
      · exact .inr (.inl (by simp only [State.hostWrite, hserved, hctrl]))
      by_cases hstatus : t = .reg .status
      · exact .inl ⟨s.flags.clearedBy v, by simp only [State.hostWrite, hserved, hstatus]; rfl⟩
      · exact .inl ⟨_, State.hostWrite_of_busy v hbusy hserved hctrl hstatus⟩

theorem State.hostWrite_agenda (s : State) (a width : Nat) (v : Word) :
    (s.hostWrite a width v).agenda = s.agenda := by
  obtain ⟨f, h⟩ | h | ⟨t, -, h⟩ := s.hostWrite_cases a width v <;> rw [h]
  · exact s.writeCtrl_agenda v
  · exact s.writeTarget_agenda v t

theorem State.hostRead_agenda (s : State) (a width : Nat) : (s.hostRead a width).agenda = s.agenda := by
  obtain ⟨flags, rdata, draws, h⟩ := s.hostRead_hostSide a width
  rw [h]
  rfl

theorem State.hostAccess_agenda (s : State) (x : Access) : (s.hostAccess x).agenda = s.agenda := by
  rw [State.hostAccess]
  split
  · rfl
  · split
    · exact s.hostRead_agenda ..
    · exact s.hostWrite_agenda ..

/-! ### The step -/

/-- A step answers, takes the first event off the agenda, and leaves no command in flight when the sequencer moved. -/
theorem step_answers (s : State) :
    ∃ t, step s = .next t ∧ t.agenda = s.agenda.tail ∧
      ((s.agenda = [] ∨ ∃ rest, s.agenda = .sequencer :: rest) → t.busy = false) := by
  cases hagenda : s.agenda with
  | nil =>
    obtain ⟨t, hturn, hbusy, hsame⟩ := sequencerTurn_answers s
    exact ⟨t, by rw [step, hagenda]; exact hturn, hsame.trans hagenda, fun _ => hbusy⟩
  | cons e rest =>
    cases e with
    | sequencer =>
      obtain ⟨t, hturn, hbusy, hsame⟩ := sequencerTurn_answers { s with agenda := rest }
      exact ⟨t, by rw [step, hagenda]; exact hturn, hsame, fun _ => hbusy⟩
    | bus x => exact ⟨_, by rw [step, hagenda], State.hostAccess_agenda _ x, by simp⟩
    | hardReset => exact ⟨_, by rw [step, hagenda], rfl, by simp⟩

/-- Each step shortens the agenda, and with an empty one at most a command is left to complete. -/
theorem exists_endsAfter (agenda : List Event) (s : State) (hagenda : s.agenda = agenda) :
    ∃ k t, k ≤ agenda.length + 1 ∧ State.EndsAfter k s t := by
  induction agenda generalizing s with
  | nil =>
    by_cases hended : s.RunEnded
    · exact ⟨0, s, Nat.zero_le _, rfl, hended⟩
    · obtain ⟨t, hstep, htail, hbusy⟩ := step_answers s
      rw [hagenda] at htail
      exact ⟨1, t, le_rfl, hended, t, hstep, rfl, by simp [htail], hbusy (.inl hagenda)⟩
  | cons e rest ih =>
    by_cases hended : s.RunEnded
    · exact ⟨0, s, Nat.zero_le _, rfl, hended⟩
    · obtain ⟨u, hstep, htail, -⟩ := step_answers s
      rw [hagenda] at htail
      obtain ⟨k, t, hk, hends⟩ := ih u htail
      exact ⟨k + 1, t, Nat.succ_le_succ hk, hended, u, hstep, hends⟩

/-- Settles O9, by induction on the agenda. -/
theorem everyStepAnswers : Obligations.EveryStepAnswers := by
  intro s
  obtain ⟨t, hstep, -, hbusy⟩ := step_answers s
  exact ⟨⟨t, hstep, hbusy⟩, exists_endsAfter s.agenda s rfl⟩

end Sys2Proof.Machine
end

section
/-! PROOF. The invariant: it holds at reset, and commands, host accesses and resets keep it. -/

namespace Sys2Proof.Machine

open Sys2Proof.Config (Params RamId)

/-! ### Reset -/

theorem errinfoOk_of_zero {s : State} (h : s.errinfo = 0) : s.ErrinfoOk := by
  rw [State.ErrinfoOk, h]
  decide

theorem profvOk_of_zero {s : State} (h : s.profv = 0) : s.ProfvOk := fun p _ => by
  rw [h]
  exact BitVec.getLsbD_zero

/-- The registers of either reset meet the invariant; what is left of it is the parameters and the RAMs. -/
theorem State.inv_of_resetRegisters {s t : State} (hcfg : t.cfg.Legal) (hrams : t.RamsOk)
    (h : t = { s.resetRegisters with cfg := t.cfg, ram := t.ram, draws := t.draws, epoch := t.epoch }) : t.Inv where
  cfg := hcfg
  rams := hrams
  inflight := .inl (by rw [h]; rfl)
  quant hvalid := by
    rw [h] at hvalid
    cases hvalid
  scl hvalid := by
    rw [h] at hvalid
    cases hvalid
  errinfo := errinfoOk_of_zero (by rw [h]; rfl)
  profv := profvOk_of_zero (by rw [h]; rfl)

theorem ramsOk_of_reset {s : State} (h : s.ram = Rams.reset) : s.RamsOk := by
  intro r
  have hnil : s.ram.get r = [] := by
    rw [h]
    cases r <;> rfl
  rw [hnil]
  exact ⟨List.Pairwise.nil, fun _ hc => absurd hc List.not_mem_nil⟩

/-- Settles O12: State.reset has the registers of a reset and RAMs without a written byte. -/
theorem invAtReset : Obligations.InvAtReset :=
  State.inv_of_resetRegisters (s := State.reset) (by decide) (ramsOk_of_reset rfl) rfl

theorem State.Inv.hardReset {s : State} (h : s.Inv) : s.hardReset.Inv :=
  State.inv_of_resetRegisters (s := s) h.cfg (ramsOk_of_reset rfl) rfl

theorem State.Inv.softReset {s : State} (h : s.Inv) : s.softReset.Inv := by
  have hrest := s.softReset_rest
  have hcancel := drawsRam_cancelInflight s
  have hcfg : s.softReset.cfg = s.cfg := by rw [hrest]; rfl
  have hrams : s.softReset.RamsOk := hcancel.ramsOk h.rams
  exact State.inv_of_resetRegisters (s := s) (hcfg ▸ h.cfg) hrams (by rw [hrest])

/-! ### Commands -/

/-- ERRINFO of an error has a code of R261 in bits 7:0 and zeros in bits 31:16. -/
theorem State.raiseError_errinfoOk (c : ErrCode) (s : State) : (s.raiseError c).ErrinfoOk := by
  have hcode := c.code_range
  rw [State.ErrinfoOk, State.raiseError_errinfo, errinfoWord_eq_ofNat c.code_lt, BitVec.toNat_ofNat]
  omega

/-- What an effect leaves before its end meets the invariant but for the in-flight command. -/
theorem CommandEffect.inv {i : Instr} {s u t : State} (h : CommandEffect i s u) (hs : s.Inv) (herrinfo : t.ErrinfoOk)
    (ht : t = { u with errinfo := t.errinfo, flags := t.flags, inflight := none }) : t.Inv where
  cfg := by rw [ht, h.rest]; exact hs.cfg
  rams := by rw [ht]; exact h.ramsOk hs.rams
  inflight := .inl (by rw [ht])
  quant := by
    rw [ht]
    exact h.quant.elim (fun heq => heq ▸ hs.quant) id
  scl := by
    rw [ht]
    exact h.scl.elim (fun heq => heq ▸ hs.scl) id
  errinfo := herrinfo
  profv := by rw [ht, h.rest]; exact hs.profv

theorem CommandEnd.inv {i : Instr} {s t : State} (h : CommandEnd i s t) (hs : s.Inv) : t.Inv := by
  obtain ⟨u, heffect, rfl | ⟨c, rfl⟩⟩ := h.exists_effect
  · refine heffect.inv hs ?_ rfl
    have herrinfo := hs.errinfo
    rwa [State.ErrinfoOk, ← heffect.errinfo] at herrinfo
  · exact heffect.inv hs (u.raiseError_errinfoOk c) rfl

theorem State.Inv.sequencerTurn {s t : State} (h : s.Inv) (hturn : sequencerTurn s = .next t) : t.Inv := by
  rw [Machine.sequencerTurn] at hturn
  cases hw : s.inflight with
  | none =>
    rw [hw] at hturn
    exact Host.Outcome.next.inj hturn ▸ h
  | some w =>
    rw [hw] at hturn
    obtain ⟨i, t', hrun, hend⟩ := runWord_ends w s
    exact Host.Outcome.next.inj (hrun.symm.trans hturn) ▸ hend.inv h

/-! ### Host accesses -/

theorem profvMasked_high (p : Params) (v : Word) {k : Nat} (hk : p.nprof ≤ k) :
    (profvMasked p v).getLsbD k = false := by
  rw [profvMasked_getLsbD, decide_eq_false hk.not_gt, Bool.and_false]

section
variable {s : State} (h : s.Inv)
include h

/-- IE, the flags and the model's own fields are no part of the invariant. -/
theorem State.Inv.withHostSide (ie : Bool) (flags : Flags) (rdata : Word) (draws : Nat) :
    (s.withHostSide ie flags rdata draws).Inv :=
  ⟨h.cfg, h.rams, h.inflight, h.quant, h.scl, h.errinfo, h.profv⟩

theorem State.Inv.writeCtrl (v : Word) : (s.writeCtrl v).Inv := by
  rw [State.writeCtrl]
  split
  · exact h.softReset
  · exact h.withHostSide _ _ _ _

/-- A quantizer or scaling input clears its valid bit, CMD is the in-flight command, EC_PROFV is masked. -/
theorem State.Inv.writeReg (v : Word) (r : Reg) : (s.writeReg v r).Inv := by
  obtain ⟨hcfg, hrams, hinflight, hquant, hscl, herrinfo, hprofv⟩ := h
  cases r
  case ctrl => exact State.Inv.writeCtrl ⟨hcfg, hrams, hinflight, hquant, hscl, herrinfo, hprofv⟩ v
  case cmd => exact ⟨hcfg, hrams, .inr rfl, hquant, hscl, herrinfo, hprofv⟩
  case qMin | qMax | qLevels => exact ⟨hcfg, hrams, hinflight, nofun, hscl, herrinfo, hprofv⟩
  case sOldMin | sOldMax | sNewMin | sNewMax => exact ⟨hcfg, hrams, hinflight, hquant, nofun, herrinfo, hprofv⟩
  case ecProfv => exact ⟨hcfg, hrams, hinflight, hquant, hscl, herrinfo, fun _ => profvMasked_high s.cfg v⟩
  all_goals exact ⟨hcfg, hrams, hinflight, hquant, hscl, herrinfo, hprofv⟩

/-- A state with other RAMs in canonical form. -/
theorem State.Inv.withRam {ram : Rams} (hrams : ({ s with ram := ram } : State).RamsOk) :
    ({ s with ram := ram } : State).Inv :=
  ⟨h.cfg, hrams, h.inflight, h.quant, h.scl, h.errinfo, h.profv⟩

/-- An element that exists lies inside its RAM. -/
theorem State.Inv.storeElement {r : RamId} {i : Nat} (v : Word) (hfits : 4 * (i + 1) ≤ ramSize s.cfg r) :
    (s.storeWords r i [v]).Inv :=
  h.withRam (h.rams.storeWords (.inr hfits))

theorem State.Inv.writeTarget (v : Word) {t : Target} (ht : t.InRange s.cfg) : (s.writeTarget v t).Inv := by
  cases t with
  | reg r => exact h.writeReg v r
  | reserved => exact h
  | hist i =>
    have hi : i < s.cfg.nmax := ht
    exact h.withRam (h.rams.store (.inr (by rw [ramSize, halfBytes_length]; omega)))
  | ola i | clut i | elut i | dmem i =>
    simp only [Target.InRange] at ht
    exact h.storeElement _ (by rw [ramSize]; omega)
  | ct p k =>
    obtain ⟨hp, hk⟩ := ht
    obtain ⟨-, -, -, -, -, -, -, -, -, -, hnsym, -⟩ := h.cfg
    exact h.storeElement _ (by rw [ramSize, ctIndex]; omega)

theorem State.Inv.hostAccess (x : Access) : (s.hostAccess x).Inv := by
  rw [State.hostAccess]
  split
  case h_1 => exact h
  case h_2 a _ =>
    split
    case h_1 =>
      obtain ⟨flags, rdata, draws, hread⟩ := s.hostRead_hostSide a x.width
      exact hread ▸ h.withHostSide ..
    case h_2 v _ =>
      obtain ⟨f, hwrite⟩ | hwrite | ⟨t, ht, hwrite⟩ := s.hostWrite_cases a x.width v <;> rw [hwrite]
      · exact h.withHostSide s.ie f s.rdata s.draws
      · exact h.writeCtrl v
      · exact h.writeTarget v ht

/-- The agenda is no part of the invariant. -/
theorem State.Inv.withAgenda (agenda : List Event) : ({ s with agenda := agenda } : State).Inv :=
  ⟨h.cfg, h.rams, h.inflight, h.quant, h.scl, h.errinfo, h.profv⟩

end

/-- Settles O13: a step is a turn of the sequencer, a host access or a hard reset, each of which keeps the invariant. -/
theorem stepKeepsInv : Obligations.StepKeepsInv := by
  intro s t h hstep
  rw [step] at hstep
  split at hstep
  case h_1 => exact h.sequencerTurn hstep
  case h_2 rest _ => exact (h.withAgenda rest).sequencerTurn hstep
  case h_3 x rest _ => exact Host.Outcome.next.inj hstep ▸ (h.withAgenda rest).hostAccess x
  case h_4 rest _ => exact Host.Outcome.next.inj hstep ▸ (h.withAgenda rest).hardReset

end Sys2Proof.Machine
end

section
/-! PROOF. RECIP (42_nmf_scaling.md R182), and R185's part of one MUPD: no entry it writes is negative. -/

namespace Sys2Proof.Machine

/-! ### RECIP -/

theorem opcodeEntry_recip {w : Word} (hopc : opcField w = 0x2A) : opcodeEntry w = some (0x000000FF, .recip) := by
  rw [opcodeEntry, hopc]
  rfl

theorem recipOf_sat_iff (x : Int) : (recipOf x).sat = true ↔ x ≠ 0 ∧ clips32 (rne (2 ^ 32) x) = true := by
  unfold recipOf
  split_ifs <;> simp [Elem.saturated, *]

theorem recipOf_divz_iff (x : Int) : (recipOf x).divz = true ↔ x = 0 := by
  unfold recipOf
  split_ifs <;> simp [Elem.saturated, *]

theorem sext_recipOf_word (x : Int) :
    sext (recipOf x).word = if x = 0 then 2 ^ 31 - 1 else sat32 (rne (2 ^ 32) x) := by
  unfold recipOf
  split_ifs
  · rfl
  · exact sext_bits32_sat32 _

theorem recipElem_elementLoop {s : State} {i : Nat} (hi : i < s.count) :
    recipElem (elementLoop recipElem s.dst i 0 s) i =
      recipOf (sext (readBy s (elementWise recipElem s) i (s.src0 + i))) := by
  rw [recipElem, elementLoop_src0, elementLoop_dmemInt _ hi]

/-- Settles O32: the region test, then `recipOf`, which is R182's pseudocode, for each element. -/
theorem recipWritesReciprocals : Obligations.RecipWritesReciprocals := by
  refine ⟨reservedFieldRefused_of_entry fun _ hopc => ⟨_, opcodeEntry_recip hopc⟩, fun s => ?_⟩
  refine ends_of_regions (f := recipElem) rfl ?_
  have hwritten := elementWise_elementsWritten fun _ hi => recipElem_elementLoop (s := s) hi
  simp only [ElementsWritten, recipOf_sat_iff, recipOf_divz_iff, sext_recipOf_word] at hwritten
  exact hwritten

/-! ### MUPD keeps the factors non-negative -/

theorem sat32_nonneg {x : Int} (hx : 0 ≤ x) : 0 ≤ sat32 x := by
  simp only [sat32, clamp]
  omega

theorem mupdOf_word_nonneg {a b c : Int} (ha : 0 ≤ a) (hb : 0 ≤ b) (hc : 0 ≤ c) : 0 ≤ sext (mupdOf a b c).word := by
  rw [sext_mupdOf_word]
  split
  case isTrue => split_ifs <;> norm_num
  case isFalse hne => exact sat32_nonneg (rne_nonneg (mul_nonneg ha hb) (by omega))

/-- An input of element i is not negative: it is an input of the command, or an earlier element. -/
theorem readBy_nonneg {s t : State} {i x : Nat} (hinput : 0 ≤ s.dmemInt x)
    (hearlier : ∀ j < i, 0 ≤ t.dmemInt (s.dst + j)) : 0 ≤ sext (readBy s t i x) := by
  rw [readBy]
  split
  case isTrue hx =>
    have hword := hearlier (x - s.dst) (by omega)
    rwa [Nat.add_sub_cancel' hx.1] at hword
  case isFalse => exact hinput

/-- An error sets ERR. -/
theorem err_of_endsWith {code : Nat} {i : Instr} {s t : State} (h : EndsWith code i s) (hexec : exec i s = .next t) :
    t.flags.err = true := by
  have ht : errorState code s = t := Host.Outcome.next.inj (h.symm.trans hexec)
  rw [← ht]
  rfl

/-- Settles O34: without an error no input is negative, so by induction on the elements no output is. -/
theorem mupdKeepsNonNegative : Obligations.MupdKeepsNonNegative := by
  intro s t _ hexec herr
  obtain ⟨hfails, hnegative, hcompletes⟩ := mupdWritesFactors.2 s
  have hends {code : Nat} (h : EndsWith code .mupd s) : False := by simp [err_of_endsWith h hexec] at herr
  have hpasses := not_not.mp fun h => hends (hfails h)
  have hnonneg := fun h => hends (hnegative hpasses h)
  obtain ⟨t', hexec', -, -, -, hvalues⟩ := hcompletes hpasses hnonneg
  obtain rfl : t = t' := Host.Outcome.next.inj (hexec.symm.trans hexec')
  have hinputs : ∀ i < s.count, 0 ≤ s.dmemInt (s.src0 + i) ∧ 0 ≤ s.dmemInt (s.src1 + i) ∧
      0 ≤ s.dmemInt (s.src2 + i) := fun i hi => by
    by_contra hsign
    exact hnonneg ⟨i, hi, by omega⟩
  intro i
  induction i using Nat.strong_induction_on with
  | _ i ih =>
    intro hi
    have hearlier : ∀ j < i, 0 ≤ t.dmemInt (s.dst + j) := fun j hj => ih j hj (hj.trans hi)
    obtain ⟨ha, hb, hc⟩ := hinputs i hi
    rw [hvalues i hi, ← sext_mupdOf_word]
    exact mupdOf_word_nonneg (readBy_nonneg ha hearlier) (readBy_nonneg hb hearlier) (readBy_nonneg hc hearlier)

end Sys2Proof.Machine
end

section
/-! PROOF. UNSHIFT after SHIFT (42_nmf_scaling.md R188), from what either command writes. -/

namespace Sys2Proof.Machine

theorem Completed.sat_false {s t : State} {sat divz : Prop} (h : Completed s t sat divz) (hclear : t.flags.sat = false) :
    ¬sat := by
  obtain ⟨-, -, -, -, -, hsat, -⟩ := h
  exact fun hs => by simp [hsat.mpr (.inr hs)] at hclear

theorem sat32_of_not_clips {x : Int} (h : ¬clips32 x = true) : sat32 x = x := by
  simpa [clips32] using h

/-- In place or with disjoint regions element i reads what was there before the command. -/
theorem readBy_source {s t : State} {i : Nat} (hi : i < s.count)
    (hregions : s.dst = s.src0 ∨ s.dst + s.count ≤ s.src0 ∨ s.src0 + s.count ≤ s.dst) :
    readBy s t i (s.src0 + i) = s.dmemWord (s.src0 + i) := by
  rw [readBy, if_neg]
  omega

/-- A SHIFT without an error and without SAT adds |min| to every input exactly. -/
theorem shift_exact {s t : State} (hexec : exec .shift s = .next t) (herr : t.flags.err = false)
    (hsat : t.flags.sat = false)
    (hregions : s.dst = s.src0 ∨ s.dst + s.count ≤ s.src0 ∨ s.src0 + s.count ≤ s.dst) :
    UnaryPasses s ∧ t.cfg = s.cfg ∧ t.ops = s.ops ∧
      ∀ i < s.count, t.dmemInt (s.dst + i) = s.dmemInt (s.src0 + i) + zext t.shiftv := by
  obtain ⟨hcount, hfails, hcompletes⟩ := shiftAddsAbsoluteMinimum.2 s
  have hends {code : Nat} (h : EndsWith code .shift s) : False := by simp [err_of_endsWith h hexec] at herr
  have hcount := fun h => hends (hcount h)
  have hpasses := not_not.mp fun h => hends (hfails hcount h)
  obtain ⟨t', m, hexec', -, -, hscalar, hcompleted, hregs, -, hvalues⟩ := hcompletes hcount hpasses
  obtain rfl : t = t' := Host.Outcome.next.inj (hexec.symm.trans hexec')
  obtain ⟨hcfg, -, -, -, hops, -⟩ := hregs
  refine ⟨hpasses, hcfg, hops, fun i hi => ?_⟩
  have hfits := sat32_of_not_clips fun hclips => hcompleted.sat_false hsat ⟨i, hi, hclips⟩
  rw [hvalues i hi, hfits, hscalar]
  exact congrArg (fun w => sext w + |m|) (readBy_source hi hregions)

theorem not_clips32_of_sext (w : Word) : ¬clips32 (sext w) = true := by
  rw [Bool.not_eq_true, clips32_eq_false_iff]
  exact sext_word_range w

/-- An in-place UNSHIFT of elements x + SHIFTV, for 32-bit words x, gives every x back without SAT. -/
theorem unshift_exact {s : State} {x : Nat → Word} (hplace : s.dst = s.src0) (hpasses : UnaryPasses s)
    (hinput : ∀ i < s.count, s.dmemInt (s.dst + i) = sext (x i) + zext s.shiftv) :
    ∃ u, exec .unshift s = .next u ∧ u.flags.err = s.flags.err ∧ (s.flags.sat = false → u.flags.sat = false) ∧
      ∀ i < s.count, u.dmemInt (s.dst + i) = sext (x i) := by
  obtain ⟨u, hexec, ⟨-, -, herr, -, -, hsat, -⟩, -, -, hvalues⟩ := (unshiftSubtractsScalar.2 s).2 hpasses
  have hvalue : ∀ i < s.count, sext (readBy s u i (s.src0 + i)) - zext s.shiftv = sext (x i) := fun i hi => by
    have hread : sext (readBy s u i (s.src0 + i)) = s.dmemInt (s.dst + i) := by
      rw [readBy_source hi (.inl hplace), hplace]
      rfl
    rw [hread, hinput i hi, Int.add_sub_cancel]
  refine ⟨u, hexec, herr, fun hclear => ?_, fun i hi => ?_⟩
  · rw [← Bool.not_eq_true, hsat, hclear]
    rintro (hfalse | ⟨i, hi, hclips⟩)
    · cases hfalse
    · dsimp only at hclips
      rw [hvalue i hi] at hclips
      exact not_clips32_of_sext _ hclips
  · rw [hvalues i hi]
    dsimp only
    rw [hvalue i hi, sat32_of_not_clips (not_clips32_of_sext _)]

/-- UNSHIFT's operands after SHIFT: its source is SHIFT's destination. -/
def State.unshiftOf (t : State) : State := { t with ops := { t.ops with src0 := t.ops.dst } }

/-- Settles O37: SHIFT's outputs are x + SHIFTV exactly, and UNSHIFT subtracts SHIFTV again. -/
theorem unshiftUndoesShift : Obligations.UnshiftUndoesShift := by
  intro s t hexec herr hsat hregions
  obtain ⟨⟨-, hdst⟩, hcfg, hops, hvalues⟩ := shift_exact hexec herr hsat hregions
  have hcount : t.unshiftOf.count = s.count := by
    change zext t.ops.count = s.count
    rw [hops]
    rfl
  have hbase : t.unshiftOf.dst = s.dst := by
    change zext t.ops.dst = s.dst
    rw [hops]
    rfl
  have hpass : Passes t.unshiftOf t.unshiftOf.dst t.unshiftOf.count := by
    have hwords : t.unshiftOf.cfg.dmemWords = s.cfg.dmemWords := congrArg Config.Params.dmemWords hcfg
    rw [Passes, hcount, hbase, hwords]
    exact hdst
  obtain ⟨u, hunshift, herr', hsat', houtput⟩ := unshift_exact (s := t.unshiftOf)
    (x := fun i => s.dmemWord (s.src0 + i)) rfl ⟨hpass, hpass⟩ fun i hi => by
      rw [hbase]
      exact hvalues i (hcount ▸ hi)
  refine ⟨u, hunshift, herr'.trans herr, hsat' hsat, fun i hi => ?_⟩
  rw [← hbase]
  exact houtput i (hcount.symm ▸ hi)

end Sys2Proof.Machine
end

section
/-! PROOF. Rounding and clamping as approximation (00_scope.md R10, R11), and what follows from it for the quantizer's
round trip, the compander's curve and the Hann windows. -/

namespace Sys2Proof.Machine

/-! ### Approximation -/

section
variable {K : Type} [Field K] [LinearOrder K] [IsStrictOrderedRing K]

/-- RNE is off by at most one half. -/
theorem abs_rne_sub_div_le (p : Int) {q : Int} (hq : 0 < q) : |(rne p q : K) - p / q| ≤ 1 / 2 := by
  have hqK : (0 : K) < q := Int.cast_pos.mpr hq
  obtain ⟨hdist, -⟩ := rne_isNearestEven p hq.ne'
  rw [abs_of_pos hq] at hdist
  have hcast : |2 * ((q : K) * rne p q - p)| ≤ q := by exact_mod_cast hdist
  have hscaled : 2 * ((q : K) * rne p q - p) = 2 * q * (rne p q - p / q) := by field_simp
  rw [hscaled, abs_mul, abs_of_pos (by positivity : (0 : K) < 2 * q)] at hcast
  by_contra hlt
  have hgt : 2 * (q : K) * (1 / 2) < 2 * q * |(rne p q : K) - p / q| :=
    mul_lt_mul_of_pos_left (not_le.mp hlt) (by positivity)
  linarith

/-- Clamping does not move away from a value of the range. -/
theorem abs_clamp_sub_le {lo hi : Int} {z : K} (hlo : (lo : K) ≤ z) (hhi : z ≤ hi) (y : Int) :
    |(clamp y lo hi : K) - z| ≤ |(y : K) - z| := by
  rw [clamp, Int.cast_min, Int.cast_max]
  rcases le_total (y : K) lo with h | h
  · rw [max_eq_right h, min_eq_left (hlo.trans hhi), abs_of_nonpos (by linarith), abs_of_nonpos (by linarith)]
    linarith
  · rw [max_eq_left h]
    rcases le_total (y : K) hi with h' | h'
    · rw [min_eq_left h']
    · rw [min_eq_right h', abs_of_nonneg (by linarith), abs_of_nonneg (by linarith)]
      linarith

end

/-! ### The quantizer's round trip -/

/-- A factor that was rounded with 32 fraction bits, applied to a ≥ 0, is off by at most a·2^-33. -/
theorem abs_scaled_factor_sub_le {a r : Int} {e : ℚ} (ha : 0 ≤ a) (hr : |(r : ℚ) - e * 2 ^ 32| ≤ 1 / 2) :
    |(a : ℚ) * r / 2 ^ 32 - a * e| ≤ (a : ℚ) / 2 ^ 33 := by
  have haQ : (0 : ℚ) ≤ a := Int.cast_nonneg ha
  have hscaled : (a : ℚ) * r / 2 ^ 32 - a * e = a / 2 ^ 32 * (r - e * 2 ^ 32) := by field_simp
  rw [hscaled, abs_mul, abs_of_nonneg (by positivity)]
  calc (a : ℚ) / 2 ^ 32 * |(r : ℚ) - e * 2 ^ 32| ≤ a / 2 ^ 32 * (1 / 2) :=
        mul_le_mul_of_nonneg_left hr (by positivity)
    _ = a / 2 ^ 33 := by ring

theorem abs_rne_mul_sub_scaled_le (a r : Int) : |(rne (a * r) (2 ^ 32) : ℚ) - a * r / 2 ^ 32| ≤ 1 / 2 := by
  have hround := abs_rne_sub_div_le (K := ℚ) (a * r) (q := 2 ^ 32) (by norm_num)
  push_cast at hround
  exact hround

/-- So is its rounded product, and by one half more. -/
theorem abs_rne_mul_sub_le {a r : Int} {e : ℚ} (ha : 0 ≤ a) (hr : |(r : ℚ) - e * 2 ^ 32| ≤ 1 / 2) :
    |(rne (a * r) (2 ^ 32) : ℚ) - a * e| ≤ 1 / 2 + (a : ℚ) / 2 ^ 33 := by
  have hround := abs_rne_mul_sub_scaled_le a r
  have hfactor := abs_scaled_factor_sub_le ha hr
  exact (abs_sub_le _ ((a : ℚ) * r / 2 ^ 32) _).trans (add_le_add hround hfactor)

/-- Q_RCP, or Q_STEP: a quotient rounded with 32 fraction bits. -/
theorem abs_factor_sub_le {f : DWord} {p d : Int} (hd : 0 < d) (hf : (zext f : Int) = rne (p * 2 ^ 32) d) :
    |(((zext f : Nat) : Int) : ℚ) - (p / d : ℚ) * 2 ^ 32| ≤ 1 / 2 := by
  have hround := abs_rne_sub_div_le (K := ℚ) (p * 2 ^ 32) hd
  rw [← hf] at hround
  push_cast at hround ⊢
  rwa [div_mul_eq_mul_div]

section
variable {q : QuantRegs} (hcoherent : q.Coherent) (hvalid : q.qValid = true)
include hcoherent hvalid

/-- The index is within 1/2 + δ of (x - mn)/step. -/
theorem abs_quantIndex_sub_le {x : Int} (hmin : sext q.qMin ≤ x) (hmax : x ≤ sext q.qMax) :
    |(quantIndex q x : ℚ) - (x - sext q.qMin) * (((zext q.qLevels : ℚ) - 1) / (sext q.qMax - sext q.qMin))| ≤
      1 / 2 + (x - sext q.qMin) / 2 ^ 33 := by
  obtain ⟨hlevels, -, hrange, hrcp, -⟩ := hcoherent hvalid
  have hwidth : (0 : ℚ) < sext q.qMax - sext q.qMin := by exact_mod_cast sub_pos.mpr hrange
  have htop : (0 : ℚ) ≤ (zext q.qLevels : ℚ) - 1 := by
    have : (2 : ℚ) ≤ zext q.qLevels := by exact_mod_cast hlevels
    linarith
  have hx : (0 : ℚ) ≤ x - sext q.qMin := by exact_mod_cast sub_nonneg.mpr hmin
  have hx' : (x : ℚ) - sext q.qMin ≤ sext q.qMax - sext q.qMin := by exact_mod_cast sub_le_sub_right hmax _
  have hfactor := abs_factor_sub_le (sub_pos.mpr hrange) hrcp
  have hclose := abs_rne_mul_sub_le (sub_nonneg.mpr hmin) hfactor
  push_cast at hclose
  refine (abs_clamp_sub_le ?_ ?_ _).trans hclose
  · push_cast
    positivity
  · push_cast
    calc ((x : ℚ) - sext q.qMin) * (((zext q.qLevels : ℚ) - 1) / (sext q.qMax - sext q.qMin))
        ≤ (sext q.qMax - sext q.qMin) * (((zext q.qLevels : ℚ) - 1) / (sext q.qMax - sext q.qMin)) :=
          mul_le_mul_of_nonneg_right hx' (by positivity)
      _ = (zext q.qLevels : ℚ) - 1 := by field_simp

/-- The value of an index of the table is off by Q_STEP's rounding and one half. -/
theorem abs_dequantValue_sub_le {k : Nat} (hk : (k : ℚ) ≤ (zext q.qLevels : ℚ) - 1) :
    |(dequantValue q k : ℚ) - (sext q.qMin + k * ((sext q.qMax - sext q.qMin) / ((zext q.qLevels : ℚ) - 1)))| ≤
      1 / 2 + ((zext q.qLevels : ℚ) - 1) / 2 ^ 33 := by
  obtain ⟨hlevels, -, -, -, hstep⟩ := hcoherent hvalid
  have hfactor := abs_factor_sub_le (by omega) hstep
  have hclose := abs_rne_mul_sub_le (Int.natCast_nonneg k) hfactor
  push_cast at hclose
  rw [dequantValue, Int.cast_add, add_sub_add_left_eq_sub]
  refine hclose.trans ?_
  linarith [div_le_div_of_nonneg_right hk (by positivity : (0 : ℚ) ≤ 2 ^ 33)]

end

/-- Settles O38: the index is within 1/2 + δ of (x - mn)/step, and its value adds Q_STEP's rounding and one half. -/
theorem quantizerRoundTripBound : Obligations.QuantizerRoundTripBound := by
  intro q x hcoherent hvalid hmin hmax step δ
  obtain ⟨hlevels, -, hrange, -⟩ := hcoherent hvalid
  have hlevelsQ : (2 : ℚ) ≤ zext q.qLevels := by exact_mod_cast hlevels
  have hwidth : (0 : ℚ) < sext q.qMax - sext q.qMin := by exact_mod_cast sub_pos.mpr hrange
  have htop : (0 : ℚ) < (zext q.qLevels : ℚ) - 1 := by linarith
  have hstep : 0 < step := div_pos hwidth htop
  have hindexrange := clamp_range (rne ((x - sext q.qMin) * zext q.qRcp) (2 ^ 32)) 0 ((zext q.qLevels : Int) - 1)
    (by omega)
  have hnat : (((quantIndex q x).toNat : Nat) : ℚ) = quantIndex q x := by
    exact_mod_cast Int.toNat_of_nonneg hindexrange.1
  have hindextop : (((quantIndex q x).toNat : Nat) : ℚ) ≤ (zext q.qLevels : ℚ) - 1 := by
    rw [hnat]
    exact_mod_cast hindexrange.2
  have hindex := abs_quantIndex_sub_le hcoherent hvalid hmin hmax
  have hvalue := abs_dequantValue_sub_le hcoherent hvalid hindextop
  have hin : ((-2 ^ 31 : Int) : ℚ) ≤ x ∧ (x : ℚ) ≤ ((2 ^ 31 - 1 : Int) : ℚ) := by
    have hlo := sext_word_range q.qMin
    have hhi := sext_word_range q.qMax
    exact ⟨by exact_mod_cast hlo.1.trans hmin, by exact_mod_cast hmax.trans hhi.2⟩
  have hsplit : (dequantValue q (quantIndex q x).toNat : ℚ) - x =
      (dequantValue q (quantIndex q x).toNat - (sext q.qMin + (quantIndex q x).toNat * step)) +
      step * (quantIndex q x - (x - sext q.qMin) * (((zext q.qLevels : ℚ) - 1) / (sext q.qMax - sext q.qMin))) := by
    have hcancel : step * (((zext q.qLevels : ℚ) - 1) / (sext q.qMax - sext q.qMin)) = 1 := by
      change (sext q.qMax - sext q.qMin : ℚ) / _ * _ = 1
      field_simp
    rw [hnat]
    linear_combination (x - sext q.qMin : ℚ) * hcancel
  calc |(sat32 (dequantValue q (quantIndex q x).toNat) : ℚ) - x|
      ≤ |(dequantValue q (quantIndex q x).toNat : ℚ) - x| := abs_clamp_sub_le hin.1 hin.2 _
    _ ≤ (1 / 2 + ((zext q.qLevels : ℚ) - 1) / 2 ^ 33) + step * (1 / 2 + δ) := by
        rw [hsplit]
        refine (abs_add_le _ _).trans (add_le_add hvalue ?_)
        rw [abs_mul, abs_of_pos hstep]
        exact mul_le_mul_of_nonneg_left hindex hstep.le
    _ = (1 / 2 + δ) * step + ((zext q.qLevels : ℚ) - 1) / 2 ^ 33 + 1 / 2 := by ring

/-! ### The compander's curve -/

/-- Settles O39: the magnitude of -x is that of x, and for x ≠ 0 the signs differ. -/
theorem companderCurveIsOdd : Obligations.CompanderCurveIsOdd := by
  intro lutLog2 T x hx
  simp only [lutValue, Int.natAbs_neg]
  rcases hx.lt_or_gt with hneg | hpos
  · rw [if_pos hneg, if_neg (by omega), neg_neg]
  · rw [if_pos (by omega), if_neg hpos.not_gt]

/-! ### The Hann windows -/

/-- A hop is half a turn: two quarter turns more, and the same rest. -/
theorem romCos_add_half {n : Nat} (hn : 0 < n) (m : Nat) : romCos (2 * n) (m + n) = -romCos (2 * n) m := by
  have hangle : romAngle (2 * n) (m + n) = romAngle (2 * n) m := by
    rw [romAngle, romAngle, show 4 * (m + n) = 4 * m + 2 * n * 2 by ring, Nat.add_mul_mod_self_left]
  have hquarter : romQuarter (2 * n) (m + n) = (romQuarter (2 * n) m + 2) % 4 := by
    rw [romQuarter, romQuarter, show 4 * (m + n) = 4 * m + 2 * n * 2 by ring,
      Nat.add_mul_div_left _ _ (by omega), Nat.mod_add_mod]
  have hlt : romQuarter (2 * n) m < 4 := Nat.mod_lt _ (by decide)
  simp only [romCos, hangle, hquarter]
  interval_cases romQuarter (2 * n) m <;> simp

/-- An even integer can be taken out of a rounding. -/
theorem rne_mul_sub {q : Int} (hq : q ≠ 0) {k : Int} (hk : k % 2 = 0) (p : Int) : rne (k * q - p) q = k - rne p q := by
  obtain ⟨hdist, htie⟩ := rne_isNearestEven p hq
  have hneg : 2 * (q * (k - rne p q) - (k * q - p)) = -(2 * (q * rne p q - p)) := by ring
  rw [rne_eq_iff hq, IsNearestEven, hneg, abs_neg]
  exact ⟨hdist, fun h => by have := htie h; omega⟩

theorem clamp_add_clamp_sub {top : Int} (htop : 0 ≤ top) (x : Int) : clamp x 0 top + clamp (top - x) 0 top = top := by
  simp only [clamp]
  omega

/-- Settles O17: half a turn negates the cosine, so the two roundings, clamped or not, sum to 2^15. -/
theorem hannWindowsSumToOne : Obligations.HannWindowsSumToOne := by
  intro n m hn
  have hsum : rne (2 ^ 96 - romCos (2 * n) (m + n)) (2 ^ 82) = 2 ^ 15 - rne (2 ^ 96 - romCos (2 * n) m) (2 ^ 82) := by
    rw [← rne_mul_sub (by norm_num) (by norm_num), romCos_add_half hn]
    congr 1
    ring
  rw [hannq, hannq, hsum]
  exact clamp_add_clamp_sub (by norm_num) _

end Sys2Proof.Machine
end

section
/-! PROOF. A command does not read the host's side of the state (40_control.md R121): IE, the flags, rdata and draws. Two
states that agree but for it give two results that agree but for it. -/

namespace Sys2Proof.Machine

open Sys2Proof.Config (RamId)

/-- The states agree but for IE, the flags, rdata and draws. -/
def HostSideOnly (s t : State) : Prop := ∃ ie flags rdata draws, t = s.withHostSide ie flags rdata draws

/-- Next states, if the outcomes are such, agree but for the host's side. -/
def OutcomesAgree (o o' : Host.Outcome State Fault Refusal) : Prop :=
  ∀ t u, o = .next t → o' = .next u → HostSideOnly t u

/-! ### The parts of a command -/

section
variable {s s' : State} (h : HostSideOnly s s')
include h

theorem HostSideOnly.finish : OutcomesAgree (finish s) (finish s') := by
  obtain ⟨ie, flags, rdata, draws, rfl⟩ := h
  rintro _ _ ⟨⟩ ⟨⟩
  exact ⟨_, _, _, _, rfl⟩

theorem HostSideOnly.fail (c : ErrCode) : OutcomesAgree (fail c s) (fail c s') := by
  obtain ⟨ie, flags, rdata, draws, rfl⟩ := h
  rintro _ _ ⟨⟩ ⟨⟩
  exact ⟨_, _, _, _, rfl⟩

theorem HostSideOnly.storeWords (r : RamId) (i : Nat) (ws : List Word) :
    HostSideOnly (s.storeWords r i ws) (s'.storeWords r i ws) := by
  obtain ⟨ie, flags, rdata, draws, rfl⟩ := h
  exact ⟨_, _, _, _, rfl⟩

theorem HostSideOnly.storeHist (hs : List Half) : HostSideOnly (s.storeHist hs) (s'.storeHist hs) := by
  obtain ⟨ie, flags, rdata, draws, rfl⟩ := h
  exact ⟨_, _, _, _, rfl⟩

theorem HostSideOnly.note (sat divz : Bool) : HostSideOnly (s.note sat divz) (s'.note sat divz) := by
  obtain ⟨ie, flags, rdata, draws, rfl⟩ := h
  exact ⟨_, _, _, _, rfl⟩

theorem HostSideOnly.withShiftv (v : Word) : HostSideOnly { s with shiftv := v } { s' with shiftv := v } := by
  obtain ⟨ie, flags, rdata, draws, rfl⟩ := h
  exact ⟨_, _, _, _, rfl⟩

/-- The same check of both states. -/
theorem HostSideOnly.check {p : Prop} [Decidable p] {c : ErrCode} {o o' : Host.Outcome State Fault Refusal}
    (hrest : OutcomesAgree o o') :
    OutcomesAgree (if p then Machine.fail c s else o) (if p then Machine.fail c s' else o') := by
  split
  · exact h.fail c
  · exact hrest

/-- The element loop, for a computation that does not read the host's side. -/
theorem HostSideOnly.elementLoop {f : State → Nat → Elem} (hf : ∀ s s' i, HostSideOnly s s' → f s' i = f s i)
    (dst k i : Nat) : HostSideOnly (elementLoop f dst k i s) (elementLoop f dst k i s') := by
  induction k generalizing i s s' with
  | zero => exact h
  | succ k ih =>
    rw [elementLoop_succ, elementLoop_succ, hf s s' i h]
    exact ih ((h.storeWords ..).note ..) (i + 1)

theorem HostSideOnly.elementWise {f : State → Nat → Elem} (hf : ∀ s s' i, HostSideOnly s s' → f s' i = f s i) :
    HostSideOnly (elementWise f s) (elementWise f s') := by
  have hloop := h.elementLoop hf s.dst s.count 0
  obtain ⟨ie, flags, rdata, draws, rfl⟩ := h
  exact hloop

theorem HostSideOnly.unary {f : State → Nat → Elem} (hf : ∀ s s' i, HostSideOnly s s' → f s' i = f s i) :
    OutcomesAgree (if !s.unaryRegionsOk then Machine.fail .addrRange s else Machine.finish (Machine.elementWise f s))
      (if !s'.unaryRegionsOk then Machine.fail .addrRange s' else Machine.finish (Machine.elementWise f s')) := by
  have hloop := h.elementWise hf
  obtain ⟨ie, flags, rdata, draws, rfl⟩ := h
  exact HostSideOnly.check ⟨ie, flags, rdata, draws, rfl⟩ hloop.finish

/-- The end of an inverse transform, for the same block of values. -/
theorem HostSideOnly.emitBlock (n : Nat) (y : List Int) (nowr : Bool) :
    HostSideOnly (s.emitBlock n y nowr) (s'.emitBlock n y nowr) := by
  obtain ⟨ie, flags, rdata, draws, rfl⟩ := h
  cases nowr <;> exact ⟨_, _, _, _, rfl⟩

/-- The end of EC_DECODE, for the same symbols. -/
theorem HostSideOnly.outcome (e : DecodeEnd) : OutcomesAgree (e.outcome s) (e.outcome s') := by
  obtain ⟨ie, flags, rdata, draws, rfl⟩ := h
  rw [DecodeEnd.outcome, DecodeEnd.outcome]
  cases e.error with
  | none => exact HostSideOnly.finish ⟨_, _, _, _, rfl⟩
  | some c => exact HostSideOnly.fail ⟨_, _, _, _, rfl⟩ c

end

/-! ### The entropy coder -/

section
variable (s : State) (ie : Bool) (flags : Flags) (rdata : Word) (draws : Nat) (p : Nat)

theorem hostSideOnly_withHostSide : HostSideOnly s (s.withHostSide ie flags rdata draws) := ⟨_, _, _, _, rfl⟩

theorem State.gridSize_withHostSide : (s.withHostSide ie flags rdata draws).gridSize = s.gridSize := rfl

theorem State.codedLength_withHostSide (k i : Nat) :
    (s.withHostSide ie flags rdata draws).codedLength p k i = s.codedLength p k i := by
  induction k generalizing i with
  | zero => rfl
  | succ k ih =>
    rw [State.codedLength, State.codedLength, ih]
    rfl

theorem State.decodeSymbol_withHostSide (fuel l v pos : Nat) :
    (s.withHostSide ie flags rdata draws).decodeSymbol p fuel l v pos = s.decodeSymbol p fuel l v pos := by
  induction fuel generalizing l v pos with
  | zero => rfl
  | succ fuel ih =>
    rw [State.decodeSymbol, State.decodeSymbol, ih]
    rfl

theorem State.decodeGrid_withHostSide (k pos : Nat) :
    (s.withHostSide ie flags rdata draws).decodeGrid p k pos = s.decodeGrid p k pos := by
  induction k generalizing pos with
  | zero => rfl
  | succ k ih =>
    rw [State.decodeGrid, State.decodeGrid, s.decodeSymbol_withHostSide]
    simp only [ih]

end

/-! ### The commands -/

theorem exec_withHostSide (i : Instr) (s : State) (ie : Bool) (flags : Flags) (rdata : Word) (draws : Nat) :
    OutcomesAgree (exec i s) (exec i (s.withHostSide ie flags rdata draws)) := by
  have h := hostSideOnly_withHostSide s ie flags rdata draws
  cases i with
  | nop => exact h.finish
  | xfReset => exact HostSideOnly.finish ((h.storeHist _).storeWords _ _ _)
  | mdctFwd zin | stftFwd zin => exact h.check (h.check (HostSideOnly.finish ((h.storeHist _).storeWords _ _ _)))
  | mdctInv nowr | stftInv nowr => exact h.check (h.check (h.emitBlock _ _ nowr).finish)
  | qConfig => exact h.check (h.check (HostSideOnly.finish ⟨_, _, _, _, rfl⟩))
  | sConfig => exact h.check (HostSideOnly.finish ⟨_, _, _, _, rfl⟩)
  | quant | dequant | scale => exact h.check (h.unary fun _ _ _ ⟨_, _, _, _, hs⟩ => hs ▸ rfl)
  | compand | expand | recip | unshift => exact h.unary fun _ _ _ ⟨_, _, _, _, hs⟩ => hs ▸ rfl
  | mupd =>
    exact h.check (h.check (h.elementWise (f := mupdElem) fun _ _ _ ⟨_, _, _, _, hs⟩ => hs ▸ rfl).finish)
  | shift =>
    have hloop := h.elementWise (f := shiftElem s.shiftScalar) fun _ _ _ ⟨_, _, _, _, hs⟩ => hs ▸ rfl
    exact h.check (h.check (hloop.withShiftv (BitVec.ofNat 32 s.shiftScalar)).finish)
  | ecEncode p =>
    refine h.check (h.check (h.check ?_))
    rw [s.gridSize_withHostSide, s.codedLength_withHostSide]
    cases s.codedLength p s.gridSize 0 with
    | none => exact h.fail .unencodable
    | some b => exact h.check (HostSideOnly.finish ⟨_, _, _, _, rfl⟩)
  | ecDecode p =>
    rw [exec_ecDecode, exec_ecDecode, s.gridSize_withHostSide, s.decodeGrid_withHostSide]
    exact h.check (h.check (h.check (h.outcome _)))

/-- Settles O46: such an access changes the host's side alone, which the command does not read. -/
theorem effectIsThatOfTheStateAtIssue : Obligations.EffectIsThatOfTheStateAtIssue := by
  intro s x i t u hbusy hstays hexec hexec'
  obtain ⟨ie, flags, rdata, draws, haccess⟩ := State.hostAccess_hostSide hbusy hstays
  rw [haccess] at hexec'
  obtain ⟨_, _, _, _, rfl⟩ := exec_withHostSide i s ie flags rdata draws t u hexec hexec'
  exact ⟨rfl, rfl, rfl, rfl, rfl, rfl, rfl, rfl, rfl, rfl⟩

end Sys2Proof.Machine
end

section
/-! PROOF. EC_DECODE after EC_ENCODE (44_entropy.md R235): in the stream of a prefixfree table only the code word that
was written matches, so the decoder finds each symbol. -/

namespace Sys2Proof.Machine

/-! ### Code words and stream bits -/

/-- A code word's first k bits are those of the quotient by the weight of the rest. -/
theorem bitsMsbFirst_add (v k m : Nat) : bitsMsbFirst v (k + m) = bitsMsbFirst (v / 2 ^ m) k ++ bitsMsbFirst v m := by
  induction k with
  | zero => rw [Nat.zero_add]; rfl
  | succ k ih =>
    rw [Nat.succ_add, bitsMsbFirst, bitsMsbFirst, ih, Nat.testBit_div_two_pow, Nat.add_comm k m]
    rfl

theorem State.codeWord_prefix {s : State} {p t1 t2 : Nat} (hlen : s.codeLen p t1 ≤ s.codeLen p t2)
    (hvalue : s.codeValue p t1 = s.codeValue p t2 / 2 ^ (s.codeLen p t2 - s.codeLen p t1)) :
    s.codeWord p t1 <+: s.codeWord p t2 := by
  have hsplit := bitsMsbFirst_add (s.codeValue p t2) (s.codeLen p t1) (s.codeLen p t2 - s.codeLen p t1)
  rw [Nat.add_sub_cancel' hlen, ← hvalue] at hsplit
  exact ⟨_, hsplit.symm⟩

/-- The value of the first k stream bits, when they are the first k of the L bits of v. -/
theorem bitsValue_eq_div {s : State} {base pos v L k : Nat} (hv : v < 2 ^ L) (hk : k ≤ L)
    (hbits : ∀ b < k, s.streamBit base (pos + b) = v.testBit (L - 1 - b)) :
    bitsValue s base pos k = v / 2 ^ (L - k) := by
  induction k with
  | zero => rw [Nat.sub_zero, Nat.div_eq_of_lt hv]; rfl
  | succ k ih =>
    obtain ⟨m, hm⟩ : ∃ m, L - k = m + 1 := ⟨L - (k + 1), by omega⟩
    have hbit := hbits k k.lt_succ_self
    rw [bitsValue, ih (by omega) fun b hb => hbits b (hb.trans k.lt_succ_self), hbit, Nat.toNat_testBit,
      show L - 1 - k = m by omega, hm, show L - (k + 1) = m by omega, Nat.pow_succ, ← Nat.div_div_eq_div_mul]
    exact Nat.div_add_mod _ 2

theorem State.codeLen_le (s : State) (p t : Nat) : s.codeLen p t ≤ 24 := ctLenField_ctLegal_le _

theorem State.codeValue_lt (s : State) (p t : Nat) : s.codeValue p t < 2 ^ s.codeLen p t :=
  Nat.mod_lt _ (Nat.two_pow_pos _)

/-! ### Decoding the coded grid -/

/-- u has the code table of s, and at its SRC0 a stream of the coded grid of s. -/
structure HoldsStream (s u : State) (p : Nat) : Prop where
  nsym : u.cfg.nsym = s.cfg.nsym
  codeLen : ∀ t, u.codeLen p t = s.codeLen p t
  codeValue : ∀ t, u.codeValue p t = s.codeValue p t
  encodable : ∀ i < s.gridSize, s.encodable p (symbolAt s i) = true
  bits : ∀ i < s.gridSize, ∀ b < s.codeLen p (symbolAt s i), u.streamBit u.src0 (bitsBefore s p i + b)
    = (s.codeValue p (symbolAt s i)).testBit (s.codeLen p (symbolAt s i) - 1 - b)
  length : bitsBefore s p s.gridSize ≤ 8 * u.count

section
variable {s u : State} {p : Nat} (h : HoldsStream s u p) {i : Nat} (hi : i < s.gridSize)
include h hi

theorem HoldsStream.bitsValue_eq {k : Nat} (hk : k ≤ s.codeLen p (symbolAt s i)) :
    bitsValue u u.src0 (bitsBefore s p i) k =
      s.codeValue p (symbolAt s i) / 2 ^ (s.codeLen p (symbolAt s i) - k) :=
  bitsValue_eq_div (s.codeValue_lt p _) hk fun b hb => h.bits i hi b (by omega)

/-- Where symbol i's code word stands no other code of the table matches. -/
theorem HoldsStream.codeIs_unique (hprefix : PrefixFree s p) {k t : Nat} (hpos : 1 ≤ k)
    (hk : k ≤ s.codeLen p (symbolAt s i)) (hcode : CodeIs u p k (bitsValue u u.src0 (bitsBefore s p i) k) t) :
    t = symbolAt s i := by
  obtain ⟨hsym, hlen, hvalue⟩ := hcode
  rw [h.nsym] at hsym
  rw [h.codeLen] at hlen
  rw [h.codeValue, h.bitsValue_eq hi hk, ← hlen] at hvalue
  by_contra hne
  exact hprefix t _ ((s.encodable_iff p t).mpr ⟨hsym, by omega⟩) (h.encodable i hi) hne
    (State.codeWord_prefix (by omega) hvalue)

theorem HoldsStream.decodesTo (hprefix : PrefixFree s p) :
    DecodesTo u p (bitsBefore s p i) (symbolAt s i) (bitsBefore s p (i + 1)) := by
  obtain ⟨hsym, hlen⟩ := (s.encodable_iff p _).mp (h.encodable i hi)
  have hvalue := h.bitsValue_eq hi le_rfl
  rw [Nat.sub_self, Nat.pow_zero, Nat.div_one] at hvalue
  refine ⟨s.codeLen p (symbolAt s i), by omega, s.codeLen_le p _, bitsBefore_succ s p i,
    (bitsBefore_mono s p hi).trans h.length, fun k t hpos hk hcode => ?_, ?_, fun t hlt hcode => ?_⟩
  · obtain rfl := h.codeIs_unique hi hprefix hpos (by omega) hcode
    have := (h.codeLen _).symm.trans hcode.2.1
    omega
  · exact ⟨h.nsym.symm ▸ hsym, h.codeLen _, (h.codeValue _).trans hvalue.symm⟩
  · exact hlt.ne (h.codeIs_unique hi hprefix (by omega) le_rfl hcode)

end

/-! ### EC_ENCODE's result as EC_DECODE's input -/

/-- EC_DECODE's operands after EC_ENCODE: the stream at its DST, the symbols to d. -/
def State.decodeOf (t : State) (d : Word) : State :=
  { t with ops := { t.ops with src0 := t.ops.dst, dst := d, count := t.res.res0 } }

/-- What EC_ENCODE without an error leaves for the decoder (R233). -/
structure EncodedTo (s : State) (p : Nat) (t : State) : Prop where
  registered : Registered s p
  source : Passes s s.src0 s.gridSize
  dest : Passes s s.dst ((zext s.ops.cap + 3) / 4)
  codes : ∀ i < s.gridSize, symbolAt s i < s.cfg.nsym ∧ s.codeLen p (symbolAt s i) ≠ 0
  fits : (bitsBefore s p s.gridSize + 7) / 8 ≤ zext s.ops.cap
  regs : SameRegs s { t with res := s.res }
  table : ∀ x, t.ramByte .ct x = s.ramByte .ct x
  res0 : t.res.res0 = BitVec.ofNat 32 ((bitsBefore s p s.gridSize + 7) / 8)
  res1 : t.res.res1 = BitVec.ofNat 32 (bitsBefore s p s.gridSize)
  bits : ∀ i < s.gridSize, ∀ b < s.codeLen p (symbolAt s i), t.streamBit s.dst (bitsBefore s p i + b)
    = (s.codeValue p (symbolAt s i)).testBit (s.codeLen p (symbolAt s i) - 1 - b)

theorem encodedTo_of_exec {s t : State} {p : Nat} (hexec : exec (.ecEncode p) s = .next t)
    (herr : t.flags.err = false) : EncodedTo s p t := by
  obtain ⟨hprofile, hregions, hoverlap, hnocode, hsmall, hcompletes⟩ := ecEncodeWritesStream.2 p s
  have hends {code : Nat} (h : EndsWith code (.ecEncode p) s) : False := by
    simp [err_of_endsWith h hexec] at herr
  have hreg := not_not.mp fun h => hends (hprofile h)
  have hpasses := not_not.mp fun h => hends (hregions hreg h)
  have hover := fun h => hends (hoverlap hreg hpasses h)
  have hcodes := not_not.mp fun h => hends (hnocode hreg hpasses hover h)
  have hfits := not_lt.mp fun h => hends (hsmall hreg hpasses hover hcodes h)
  obtain ⟨t', hexec', -, hregs, hrams, hres0, hres1, -, hbits, -⟩ := hcompletes hreg hpasses hover hcodes hfits
  obtain rfl : t = t' := Host.Outcome.next.inj (hexec.symm.trans hexec')
  exact ⟨hreg, hpasses.1, hpasses.2, hcodes, hfits, hregs, fun x => hrams _ _ (by simp [wordsOf]), hres0, hres1, hbits⟩

section
variable {s t : State} {p : Nat} (h : EncodedTo s p t) (d : Word)
include h

theorem EncodedTo.cfg : t.cfg = s.cfg := h.regs.1

theorem EncodedTo.profv : t.profv = s.profv := by
  obtain ⟨-, -, -, -, -, -, -, -, -, hprofv, -⟩ := h.regs
  exact hprofv

theorem EncodedTo.ops : t.ops = s.ops := by
  obtain ⟨-, -, -, -, hops, -⟩ := h.regs
  exact hops

theorem EncodedTo.decodeOf_src0 : (t.decodeOf d).src0 = s.dst := by
  change zext t.ops.dst = s.dst
  rw [h.ops]
  rfl

theorem EncodedTo.decodeOf_gridSize : (t.decodeOf d).gridSize = s.gridSize := by
  change zext t.ops.rows * zext t.ops.cols = s.gridSize
  rw [h.ops]
  rfl

/-- The byte count fits RES0, since it is at most CAP. -/
theorem EncodedTo.decodeOf_count : (t.decodeOf d).count = (bitsBefore s p s.gridSize + 7) / 8 := by
  have hcap : zext s.ops.cap < 2 ^ 32 := s.ops.cap.isLt
  have hfits := h.fits
  change zext t.res.res0 = _
  rw [h.res0, zext, BitVec.toNat_ofNat, Nat.mod_eq_of_lt (by omega)]

theorem EncodedTo.ctWord (k : Nat) : (t.decodeOf d).ctWord p k = s.ctWord p k := by
  have hbyte (x : Nat) : (t.decodeOf d).ramByte .ct x = s.ramByte .ct x := h.table x
  simp only [State.ctWord, State.ramWord, hbyte]

theorem EncodedTo.holdsStream : HoldsStream s (t.decodeOf d) p where
  nsym := congrArg Config.Params.nsym h.cfg
  codeLen k := congrArg ctLenField (h.ctWord d k)
  codeValue k := by rw [State.codeValue, State.codeValue, State.codeLen, State.codeLen, h.ctWord]
  encodable i hi := (s.encodable_iff p _).mpr (h.codes i hi)
  bits i hi b hb := by
    rw [h.decodeOf_src0]
    exact h.bits i hi b hb
  length := by
    rw [h.decodeOf_count]
    omega

theorem EncodedTo.decodeOf_registered : Registered (t.decodeOf d) p := by
  change p < t.cfg.nprof ∧ t.profv.getLsbD p = true
  rw [h.cfg, h.profv]
  exact h.registered

/-- The stream lies in the region that EC_ENCODE tested for CAP bytes. -/
theorem EncodedTo.decodeOf_source :
    Passes (t.decodeOf d) (t.decodeOf d).src0 (((t.decodeOf d).count + 3) / 4) := by
  have hdest := h.dest
  have hfits := h.fits
  have hwords : (t.decodeOf d).cfg.dmemWords = s.cfg.dmemWords := congrArg Config.Params.dmemWords h.cfg
  rw [Passes, h.decodeOf_src0, h.decodeOf_count, hwords]
  rw [Passes] at hdest
  omega

theorem EncodedTo.decodeOf_dest (hdest : Passes s d.toNat s.gridSize) :
    Passes (t.decodeOf d) (t.decodeOf d).dst (t.decodeOf d).gridSize := by
  have hwords : (t.decodeOf d).cfg.dmemWords = s.cfg.dmemWords := congrArg Config.Params.dmemWords h.cfg
  rw [Passes, h.decodeOf_gridSize, hwords]
  exact hdest

/-- The grid lies in DMEM, so its size fits RES0. -/
theorem EncodedTo.gridSize_lt (hcfg : s.cfg.Legal) : s.gridSize < 2 ^ 32 := by
  have hsource := h.source
  obtain ⟨-, -, -, -, hwords, -⟩ := hcfg
  rw [Passes] at hsource
  omega

end

/-- Settles O42: the symbols decode one after the other, each at the bits before it, and the decoder's checks pass. -/
theorem ecDecodeUndoesEcEncode : Obligations.EcDecodeUndoesEcEncode := by
  intro p s t d hcfg hprefix hexec herr hdest hover
  have h := encodedTo_of_exec hexec herr
  have hgrid := h.decodeOf_gridSize d
  have hover' : ¬Overlaps (t.decodeOf d).src0 (((t.decodeOf d).count + 3) / 4) (t.decodeOf d).dst
      (t.decodeOf d).gridSize := by
    rw [h.decodeOf_src0, hgrid]
    exact hover
  obtain ⟨-, -, -, hdecodes⟩ := ecDecodeWritesSymbols.2 p (t.decodeOf d)
  obtain ⟨hall, -⟩ := hdecodes (h.decodeOf_registered d) ⟨h.decodeOf_source d, h.decodeOf_dest d hdest⟩ hover'
    (symbolAt s) (bitsBefore s p) rfl
  obtain ⟨u, hdecode, ⟨-, hdone, herr', -⟩, -, -, -, hsymbols, hres0, hres1, -⟩ :=
    hall fun i hi => (h.holdsStream d).decodesTo (hgrid ▸ hi) hprefix
  rw [hgrid] at hsymbols hres0 hres1
  refine ⟨u, hdecode, herr'.trans herr, hdone, hres1.trans h.res1.symm, ?_, fun i hi => (hsymbols i hi).trans ?_⟩
  · rw [hres0, BitVec.toNat_ofNat, Nat.mod_eq_of_lt (h.gridSize_lt hcfg)]
  · rw [symbolAt, State.dmemNat, zext, BitVec.ofNat_toNat, BitVec.setWidth_eq]

end Sys2Proof.Machine
end

section
/-! PROOF. The Taylor series of sine and cosine (41_transform.md R140): its real remainder after 20 terms. -/

namespace Sys2Proof.Machine

/-- The terms of an alternating Taylor series over the reals, as `taylor` computes them in fixed point: from degree k on,
τ being the term of degree k and y the square of the argument. -/
noncomputable def series (y : ℝ) : Nat → Nat → ℝ → ℝ
  | 0, _, _ => 0
  | fuel + 1, k, τ => τ + series y fuel (k + 2) (-(τ * y) / ((k + 1) * (k + 2)))

/-- From the term σ·x^k / k! on, the series is that of σ·x^(k + 2j) / (k + 2j)! with alternating signs. -/
theorem series_eq_sum (x σ : ℝ) (n k : Nat) :
    series (x ^ 2) n k (σ * (x ^ k / k.factorial)) =
      ∑ j ∈ Finset.range n, σ * (-1) ^ j * (x ^ (k + 2 * j) / (k + 2 * j).factorial) := by
  induction n generalizing k σ with
  | zero => rfl
  | succ n ih =>
    have hterm : -(σ * (x ^ k / k.factorial) * x ^ 2) / (((k : ℝ) + 1) * (k + 2)) =
        -σ * (x ^ (k + 2) / (k + 2).factorial) := by
      rw [Nat.factorial_succ, Nat.factorial_succ]
      push_cast
      have hk : ((k : ℝ) + 1 + 1) = k + 2 := by ring
      rw [hk]
      field_simp
      ring
    rw [series, hterm, ih, Finset.sum_range_succ', add_comm]
    congr 1
    · refine Finset.sum_congr rfl fun j _ => ?_
      rw [show k + 2 + 2 * j = k + 2 * (j + 1) by ring, pow_succ]
      ring
    · simp

/-- The even and the odd terms of the exponential series of iθ are the two series. -/
theorem sum_exp_mul_I (θ : ℝ) (n : Nat) :
    ∑ m ∈ Finset.range (2 * n), (θ * Complex.I) ^ m / (m.factorial : ℂ) =
      (∑ j ∈ Finset.range n, (-1) ^ j * (θ ^ (2 * j) / (2 * j).factorial) : ℝ) +
      (∑ j ∈ Finset.range n, (-1) ^ j * (θ ^ (1 + 2 * j) / (1 + 2 * j).factorial) : ℝ) * Complex.I := by
  induction n with
  | zero => simp
  | succ n ih =>
    have heven : ((θ : ℂ) * Complex.I) ^ (2 * n) = (-1) ^ n * θ ^ (2 * n) := by
      rw [mul_pow, pow_mul Complex.I, Complex.I_sq, mul_comm]
    rw [Nat.mul_succ, Finset.sum_range_succ, Finset.sum_range_succ, ih, Finset.sum_range_succ, Finset.sum_range_succ,
      pow_succ, heven, Nat.add_comm 1 (2 * n)]
    push_cast
    ring

/-- Twenty terms of either series are within 2^-60 of the function on [0, 2]. -/
theorem abs_series_sub_le {θ : ℝ} (h0 : 0 ≤ θ) (h2 : θ ≤ 2) :
    |series (θ ^ 2) 20 0 1 - Real.cos θ| ≤ 1 / 2 ^ 60 ∧ |series (θ ^ 2) 20 1 θ - Real.sin θ| ≤ 1 / 2 ^ 60 := by
  have hnorm : ‖(θ : ℂ) * Complex.I‖ = θ := by
    rw [norm_mul, Complex.norm_I, mul_one, Complex.norm_real, Real.norm_of_nonneg h0]
  have hremainder := Complex.exp_bound' (x := θ * Complex.I) (n := 2 * 20) (by rw [hnorm]; norm_num; linarith)
  have hsmall : θ ^ (2 * 20) / (2 * 20).factorial * 2 ≤ 1 / 2 ^ 60 := by
    have hpow : θ ^ (2 * 20) ≤ 2 ^ (2 * 20) := pow_le_pow_left₀ h0 h2 _
    have hfactorial : (2 ^ (2 * 20) : ℝ) / (2 * 20).factorial * 2 ≤ 1 / 2 ^ 60 := by
      norm_num [Nat.factorial]
    refine le_trans ?_ hfactorial
    gcongr
  have hcos := series_eq_sum θ 1 20 0
  have hsin := series_eq_sum θ 1 20 1
  simp only [pow_zero, Nat.factorial_zero, Nat.cast_one, div_one, one_mul, zero_add, pow_one, Nat.factorial_one]
    at hcos hsin
  rw [hnorm, sum_exp_mul_I, Complex.exp_mul_I, ← Complex.ofReal_cos, ← Complex.ofReal_sin, ← hcos, ← hsin] at hremainder
  have hbound := hremainder.trans hsmall
  constructor
  · have hre := (Complex.abs_re_le_norm _).trans hbound
    rw [abs_sub_comm]
    simpa [Complex.cos_ofReal_re] using hre
  · have him := (Complex.abs_im_le_norm _).trans hbound
    rw [abs_sub_comm]
    simpa [Complex.sin_ofReal_re] using him

end Sys2Proof.Machine
end

section
/-! PROOF. The fixed-point series (41_transform.md R140) against the real one: each step's rounding at most doubles the
error of a term and adds two units of 2^-96. -/

namespace Sys2Proof.Machine

/-- A floor division in units of 2^-96 is off by at most one unit. -/
theorem abs_floor_sub_le (p : Int) {d : Int} (hd : 0 < d) : |((p / d : Int) : ℝ) - p / d| ≤ 1 := by
  have hdR : (0 : ℝ) < d := Int.cast_pos.mpr hd
  have hlo : ((p / d : Int) : ℝ) ≤ p / d := by
    rw [le_div_iff₀ hdR]
    exact_mod_cast Int.ediv_mul_le p hd.ne'
  have hhi : (p : ℝ) / d < (p / d : Int) + 1 := by
    rw [div_lt_iff₀ hdR]
    exact_mod_cast Int.lt_ediv_add_one_mul_self p hd
  rw [abs_le]
  constructor <;> linarith

/-- A number with 96 fraction bits as a real. -/
noncomputable def fixReal (x : Int) : ℝ := x / 2 ^ 96

/-- The next term of the fixed-point series. -/
def nextTerm (x2 : Int) (k : Nat) (term : Int) : Int := -(term * x2) / (2 ^ 96 * ((k + 1) * (k + 2) : Nat))

theorem taylor_succ (x2 : Int) (fuel k : Nat) (term : Int) :
    taylor x2 (fuel + 1) k term = term + taylor x2 fuel (k + 2) (nextTerm x2 k term) := rfl

/-- The error of the next term, with y ≤ 5/2 the squared argument and |τ| ≤ 2 the real term. -/
theorem abs_nextTerm_sub_le {x2 term : Int} {y τ e : ℝ} (k : Nat) (hx2 : |fixReal x2 - y| ≤ 1 / 2 ^ 96)
    (hx2range : |fixReal x2| ≤ 5 / 2) (hτ : |τ| ≤ 2) (hterm : |fixReal term - τ| ≤ e) :
    |fixReal (nextTerm x2 k term) - -(τ * y) / ((k + 1) * (k + 2))| ≤ 2 * e + 2 / 2 ^ 96 := by
  have hweight : (2 : ℝ) ≤ (k + 1) * (k + 2) := by
    have : (0 : ℝ) ≤ k := Nat.cast_nonneg k
    nlinarith
  have hfloor : |fixReal (nextTerm x2 k term) - -(fixReal term * fixReal x2) / ((k + 1) * (k + 2))| ≤ 1 / 2 ^ 96 := by
    have h := abs_floor_sub_le (-(term * x2)) (d := 2 ^ 96 * ((k + 1) * (k + 2) : Nat)) (by positivity)
    have hscaled : fixReal (nextTerm x2 k term) - -(fixReal term * fixReal x2) / ((k + 1) * (k + 2)) =
        (((nextTerm x2 k term : Int) : ℝ) -
          ((-(term * x2) : Int) : ℝ) / ((2 ^ 96 * ((k + 1) * (k + 2) : Nat) : Int) : ℝ)) / 2 ^ 96 := by
      simp only [fixReal]
      push_cast
      field_simp
      ring
    rw [hscaled, abs_div, abs_of_pos (by positivity : (0 : ℝ) < 2 ^ 96)]
    exact div_le_div_of_nonneg_right h (by positivity)
  have hproduct : |fixReal term * fixReal x2 - τ * y| ≤ e * (5 / 2) + 2 * (1 / 2 ^ 96) := by
    have hsplit : fixReal term * fixReal x2 - τ * y = (fixReal term - τ) * fixReal x2 + τ * (fixReal x2 - y) := by ring
    rw [hsplit]
    refine (abs_add_le _ _).trans ?_
    rw [abs_mul, abs_mul]
    exact add_le_add (mul_le_mul hterm hx2range (abs_nonneg _) ((abs_nonneg _).trans hterm))
      (mul_le_mul hτ hx2 (abs_nonneg _) (by norm_num))
  have hdivided : |-(fixReal term * fixReal x2) / ((k + 1) * (k + 2)) - -(τ * y) / ((k + 1) * (k + 2))| ≤
      (e * (5 / 2) + 2 * (1 / 2 ^ 96)) / 2 := by
    rw [← sub_div, neg_sub_neg, abs_div, abs_sub_comm, abs_of_pos (zero_lt_two.trans_le hweight)]
    exact div_le_div₀ ((abs_nonneg _).trans hproduct) hproduct zero_lt_two hweight
  have hnonneg : 0 ≤ e := (abs_nonneg _).trans hterm
  refine (abs_sub_le _ _ _).trans ((add_le_add hfloor hdivided).trans ?_)
  linarith

theorem fixReal_add (x x' : Int) : fixReal (x + x') = fixReal x + fixReal x' := by
  simp only [fixReal, Int.cast_add, add_div]

/-- The real terms stay within 2: only the first division may be by 2, and there the term is at most 1. -/
theorem abs_nextSeriesTerm_le {y τ : ℝ} {k : Nat} (hy : |y| ≤ 5 / 2) (hτ : |τ| ≤ 2) (hfirst : k = 0 → |τ| ≤ 1) :
    |-(τ * y) / (((k : ℝ) + 1) * (k + 2))| ≤ 2 := by
  rw [abs_div, abs_neg, abs_mul, abs_of_pos (by positivity : (0 : ℝ) < (k + 1) * (k + 2)), div_le_iff₀ (by positivity)]
  obtain rfl | hk := k.eq_zero_or_pos
  · have := mul_le_mul (hfirst rfl) hy (abs_nonneg _) zero_le_one
    norm_num
    linarith
  · have hkR : (1 : ℝ) ≤ k := Nat.one_le_cast.mpr hk
    have := mul_le_mul hτ hy (abs_nonneg _) zero_le_two
    nlinarith

/-- The error of the series: a term that is off by m units gives a value that is off by less than (m + 2) 2^fuel. -/
theorem abs_taylor_sub_series_le {x2 : Int} {y : ℝ} (hx2 : |fixReal x2 - y| ≤ 1 / 2 ^ 96)
    (hx2range : |fixReal x2| ≤ 5 / 2) (hy : |y| ≤ 5 / 2) (fuel : Nat) :
    ∀ (k : Nat) (term : Int) (τ m : ℝ), |τ| ≤ 2 → (k = 0 → |τ| ≤ 1) → |fixReal term - τ| ≤ m / 2 ^ 96 →
      |fixReal (taylor x2 fuel k term) - series y fuel k τ| ≤ (m + 2) * (2 ^ fuel - 1) / 2 ^ 96 := by
  induction fuel with
  | zero =>
    intro k term τ m _ _ _
    simp [taylor, series, fixReal]
  | succ fuel ih =>
    intro k term τ m hτ hfirst hterm
    have hnext : |-(τ * y) / (((k : ℝ) + 1) * (k + 2))| ≤ 2 := abs_nextSeriesTerm_le hy hτ hfirst
    have hrest := ih (k + 2) (nextTerm x2 k term) (-(τ * y) / ((k + 1) * (k + 2))) (2 * m + 2) hnext (by omega)
      ((abs_nextTerm_sub_le k hx2 hx2range hτ hterm).trans_eq (by ring))
    have hsplit : fixReal (taylor x2 (fuel + 1) k term) - series y (fuel + 1) k τ =
        (fixReal term - τ) + (fixReal (taylor x2 fuel (k + 2) (nextTerm x2 k term)) -
          series y fuel (k + 2) (-(τ * y) / ((k + 1) * (k + 2)))) := by
      rw [taylor_succ, fixReal_add, series]
      ring
    rw [hsplit]
    refine (abs_add_le _ _).trans ((add_le_add hterm hrest).trans ?_)
    rw [← add_div]
    refine div_le_div_of_nonneg_right ?_ (by positivity)
    rw [pow_succ]
    linarith

theorem fixReal_neg (x : Int) : fixReal (-x) = -fixReal x := by
  simp only [fixReal, Int.cast_neg, neg_div]

theorem fixReal_romOne : fixReal romOne = 1 := by
  norm_num [fixReal, romOne]

/-- The squared argument, floored. -/
theorem abs_fixReal_sq_sub_le (x : Int) : |fixReal (x * x / 2 ^ 96) - fixReal x ^ 2| ≤ 1 / 2 ^ 96 := by
  have hfloor := abs_floor_sub_le (x * x) (d := 2 ^ 96) (by norm_num)
  have hscaled : fixReal (x * x / 2 ^ 96) - fixReal x ^ 2 =
      (((x * x / 2 ^ 96 : Int) : ℝ) - ((x * x : Int) : ℝ) / ((2 ^ 96 : Int) : ℝ)) / 2 ^ 96 := by
    simp only [fixReal]
    push_cast
    ring
  rw [hscaled, abs_div, abs_of_pos (by positivity : (0 : ℝ) < 2 ^ 96)]
  exact div_le_div_of_nonneg_right hfloor (by positivity)

theorem fixReal_le_of_two_mul_le_romPi {x : Int} (hx : 2 * x ≤ romPi) : fixReal x ≤ 63 / 40 := by
  have hxR : 2 * (x : ℝ) ≤ 248902613312231085230521944622 := by exact_mod_cast hx
  rw [fixReal, div_le_iff₀ (by positivity)]
  norm_num
  linarith

/-- Both series of an angle of at most a quarter turn, against the real functions at that angle. -/
theorem abs_fixCos_fixSin_sub_le {x : Int} (h0 : 0 ≤ x) (hx : 2 * x ≤ romPi) :
    |fixReal (fixCos x) - Real.cos (fixReal x)| ≤ 1 / 2 ^ 52 ∧
    |fixReal (fixSin x) - Real.sin (fixReal x)| ≤ 1 / 2 ^ 52 := by
  have hnonneg : 0 ≤ fixReal x := div_nonneg (Int.cast_nonneg h0) (by positivity)
  have hle := fixReal_le_of_two_mul_le_romPi hx
  have hsq : |fixReal x ^ 2| ≤ 63 / 25 - 1 / 32 := by
    rw [abs_of_nonneg (sq_nonneg _)]
    nlinarith
  have hx2 := abs_fixReal_sq_sub_le x
  have hx2range : |fixReal (x * x / 2 ^ 96)| ≤ 5 / 2 := by
    have hdistance := (abs_sub_abs_le_abs_sub _ _).trans hx2
    have hunit : (1 : ℝ) / 2 ^ 96 ≤ 1 / 100 := by norm_num
    linarith
  have hseries := abs_series_sub_le hnonneg (by linarith : fixReal x ≤ 2)
  have herror := abs_taylor_sub_series_le hx2 hx2range (hsq.trans (by norm_num)) 20
  have hcos := herror 0 romOne 1 0 (by norm_num) (by norm_num) (by simp [fixReal_romOne])
  have hsin := herror 1 x (fixReal x) 0 (by rw [abs_of_nonneg hnonneg]; linarith) (by omega) (by simp)
  have hsum : (0 + 2) * (2 ^ 20 - 1) / 2 ^ 96 + 1 / 2 ^ 60 ≤ (1 : ℝ) / 2 ^ 52 := by norm_num
  exact ⟨(abs_sub_le _ _ _).trans ((add_le_add hcos hseries.1).trans hsum),
    (abs_sub_le _ _ _).trans ((add_le_add hsin hseries.2).trans hsum)⟩

/-- The angle 2πm/M less its whole quarter turns. -/
noncomputable def restAngle (M m : Nat) : ℝ := Real.pi * (4 * m % M : Nat) / (2 * M)

theorem abs_fixReal_romPi_sub_pi_le : |fixReal romPi - Real.pi| ≤ 1 / 2 ^ 60 := by
  have hlo := Real.pi_gt_d20
  have hhi := Real.pi_lt_d20
  rw [abs_le, fixReal, romPi]
  norm_num at hlo hhi ⊢
  constructor <;> linarith

theorem romAngle_nonneg (M m : Nat) : 0 ≤ romAngle M m := Int.natCast_nonneg _

theorem two_mul_romAngle_le {M : Nat} (m : Nat) (hM : 0 < M) : 2 * romAngle M m ≤ romPi := by
  have hrest : 4 * m % M ≤ M := (Nat.mod_lt _ hM).le
  have hhalf : romPi * (4 * m % M) / (2 * M) ≤ romPi / 2 := by
    rw [← Nat.mul_div_mul_right romPi 2 hM]
    exact Nat.div_le_div_right (Nat.mul_le_mul_left _ hrest)
  rw [romAngle]
  omega

theorem abs_romAngle_sub_le {M : Nat} (m : Nat) (hM : 0 < M) :
    |fixReal (romAngle M m) - restAngle M m| ≤ 1 / 2 ^ 59 := by
  have hMR : (0 : ℝ) < M := Nat.cast_pos.mpr hM
  have hpart : ((4 * m % M : Nat) : ℝ) / (2 * M) ≤ 1 / 2 := by
    rw [div_le_div_iff₀ (by positivity) (by norm_num)]
    have : ((4 * m % M : Nat) : ℝ) ≤ M := Nat.cast_le.mpr (Nat.mod_lt _ hM).le
    linarith
  have hfloor := abs_floor_sub_le (romPi * (4 * m % M) : Nat) (d := (2 * M : Nat)) (by omega)
  have hscaled : fixReal (romAngle M m) - fixReal romPi * ((4 * m % M : Nat) / (2 * M)) =
      (((((romPi * (4 * m % M) : Nat) : Int) / ((2 * M : Nat) : Int) : Int) : ℝ) -
        (((romPi * (4 * m % M) : Nat) : Int) : ℝ) / (((2 * M : Nat) : Int) : ℝ)) / 2 ^ 96 := by
    rw [romAngle, Int.natCast_ediv]
    generalize 4 * m % M = rest
    simp only [fixReal]
    push_cast
    ring
  have hround : |fixReal (romAngle M m) - fixReal romPi * ((4 * m % M : Nat) / (2 * M))| ≤ 1 / 2 ^ 96 := by
    rw [hscaled, abs_div, abs_of_pos (by positivity : (0 : ℝ) < 2 ^ 96)]
    exact div_le_div_of_nonneg_right hfloor (by positivity)
  have hpi : |fixReal romPi * ((4 * m % M : Nat) / (2 * M)) - restAngle M m| ≤ 1 / 2 ^ 60 * (1 / 2) := by
    rw [restAngle, mul_div_assoc, ← sub_mul, abs_mul]
    refine mul_le_mul abs_fixReal_romPi_sub_pi_le ?_ (abs_nonneg _) (by positivity)
    rwa [abs_of_nonneg (by positivity)]
  refine (abs_sub_le _ _ _).trans ((add_le_add hround hpi).trans ?_)
  norm_num

/-- The two series at the ROM's angle, against the real functions at the real angle. -/
theorem abs_fixCos_fixSin_romAngle_sub_le {M : Nat} (m : Nat) (hM : 0 < M) :
    |fixReal (fixCos (romAngle M m)) - Real.cos (restAngle M m)| ≤ 1 / 2 ^ 50 ∧
    |fixReal (fixSin (romAngle M m)) - Real.sin (restAngle M m)| ≤ 1 / 2 ^ 50 := by
  obtain ⟨hcos, hsin⟩ := abs_fixCos_fixSin_sub_le (romAngle_nonneg M m) (two_mul_romAngle_le m hM)
  have hangle := abs_romAngle_sub_le m hM
  have hsum : 1 / 2 ^ 52 + 1 / 2 ^ 59 ≤ (1 : ℝ) / 2 ^ 50 := by norm_num
  exact ⟨(abs_sub_le _ _ _).trans ((add_le_add hcos ((Real.abs_cos_sub_cos_le _ _).trans hangle)).trans hsum),
    (abs_sub_le _ _ _).trans ((add_le_add hsin ((Real.abs_sin_sub_sin_le _ _).trans hangle)).trans hsum)⟩

/-- The angle 2πm/M in whole turns, quarter turns and the rest. -/
theorem two_pi_mul_div_eq {M : Nat} (m : Nat) (hM : 0 < M) :
    2 * Real.pi * m / M =
      restAngle M m + romQuarter M m * (Real.pi / 2) + (4 * m / M / 4 : Nat) * (2 * Real.pi) := by
  have hMR : (M : ℝ) ≠ 0 := Nat.cast_ne_zero.mpr hM.ne'
  have hrest : (4 * m : ℝ) = M * (4 * m / M : Nat) + (4 * m % M : Nat) := by
    exact_mod_cast (Nat.div_add_mod (4 * m) M).symm
  have hquarters : ((4 * m / M : Nat) : ℝ) = 4 * (4 * m / M / 4 : Nat) + romQuarter M m := by
    exact_mod_cast (Nat.div_add_mod (4 * m / M) 4).symm
  rw [hquarters] at hrest
  rw [restAngle]
  field_simp
  linear_combination hrest

theorem abs_fixReal_neg_sub_neg_le {x : Int} {c e : ℝ} (h : |fixReal x - c| ≤ e) : |fixReal (-x) - -c| ≤ e := by
  rwa [fixReal_neg, neg_sub_neg, abs_sub_comm]

/-- The ROM's cosine and sine before rounding, by the angle's quadrant. -/
theorem abs_romCos_romSin_sub_le {M : Nat} (m : Nat) (hM : 0 < M) :
    |fixReal (romCos M m) - Real.cos (2 * Real.pi * m / M)| ≤ 1 / 2 ^ 50 ∧
    |fixReal (romSin M m) - Real.sin (2 * Real.pi * m / M)| ≤ 1 / 2 ^ 50 := by
  obtain ⟨hcos, hsin⟩ := abs_fixCos_fixSin_romAngle_sub_le m hM
  rw [two_pi_mul_div_eq m hM, Real.cos_add_nat_mul_two_pi, Real.sin_add_nat_mul_two_pi, romCos, romSin]
  have hlt : romQuarter M m < 4 := Nat.mod_lt _ (by norm_num)
  generalize romQuarter M m = q at hlt
  match q, hlt with
  | 0, _ =>
    rw [Nat.cast_zero, zero_mul, add_zero]
    exact ⟨hcos, hsin⟩
  | 1, _ =>
    rw [Nat.cast_one, one_mul, Real.cos_add_pi_div_two, Real.sin_add_pi_div_two]
    exact ⟨abs_fixReal_neg_sub_neg_le hsin, hcos⟩
  | 2, _ =>
    rw [Nat.cast_ofNat, mul_div_cancel₀ _ two_ne_zero, Real.cos_add_pi, Real.sin_add_pi]
    exact ⟨abs_fixReal_neg_sub_neg_le hcos, abs_fixReal_neg_sub_neg_le hsin⟩
  | 3, _ =>
    have hangle : restAngle M m + (3 : Nat) * (Real.pi / 2) = restAngle M m + Real.pi / 2 + Real.pi := by
      push_cast
      ring
    rw [hangle, Real.cos_add_pi, Real.sin_add_pi, Real.cos_add_pi_div_two, Real.sin_add_pi_div_two, neg_neg]
    exact ⟨hsin, abs_fixReal_neg_sub_neg_le hcos⟩

/-- Rounding to `q` and clamping a value that is within `q·e` of a real in the range adds 1/2. -/
theorem abs_clamp_rne_sub_le {p q lo hi : Int} {z e : ℝ} (hq : 0 < q) (hlo : lo ≤ z) (hhi : z ≤ hi)
    (hvalue : |(p : ℝ) / q - z| ≤ e) : |(clamp (rne p q) lo hi : ℝ) - z| ≤ 1 / 2 + e :=
  (abs_clamp_sub_le hlo hhi _).trans
    ((abs_sub_le _ _ _).trans (add_le_add (abs_rne_sub_div_le p hq) hvalue))

/-- A value with 96 fraction bits rounded to 30, as COSQ and SINQ are. -/
theorem abs_clamp_rne_fixReal_sub_le {x : Int} {c : ℝ} (hc : |c| ≤ 1) (hx : |fixReal x - c| ≤ 1 / 2 ^ 50) :
    |(clamp (rne x (2 ^ 66)) (-2 ^ 30) (2 ^ 30) : ℝ) - 2 ^ 30 * c| ≤ 1 / 2 + 1 / 2 ^ 20 := by
  obtain ⟨hlo, hhi⟩ := abs_le.mp hc
  refine abs_clamp_rne_sub_le (by norm_num) (by push_cast; linarith) (by push_cast; linarith) ?_
  have hscaled : (x : ℝ) / ((2 ^ 66 : Int) : ℝ) - 2 ^ 30 * c = 2 ^ 30 * (fixReal x - c) := by
    rw [fixReal]
    push_cast
    ring
  rw [hscaled, abs_mul, abs_of_pos (by positivity)]
  linarith

/-- HANNQ's argument, rounded to 15 fraction bits. -/
theorem abs_hannq_sub_le {F m : Nat} {c : ℝ} (hc : |c| ≤ 1) (hx : |fixReal (romCos F m) - c| ≤ 1 / 2 ^ 50) :
    |(hannq F m : ℝ) - 2 ^ 15 * (1 - c) / 2| ≤ 1 / 2 + 1 / 2 ^ 20 := by
  obtain ⟨hlo, hhi⟩ := abs_le.mp hc
  refine abs_clamp_rne_sub_le (by norm_num) (by push_cast; linarith) (by push_cast; linarith) ?_
  have hscaled : ((2 ^ 96 - romCos F m : Int) : ℝ) / ((2 ^ 82 : Int) : ℝ) - 2 ^ 15 * (1 - c) / 2 =
      -(2 ^ 14 * (fixReal (romCos F m) - c)) := by
    rw [fixReal]
    push_cast
    ring
  rw [hscaled, abs_neg, abs_mul, abs_of_pos (by positivity)]
  linarith

/-- Settles O18: the series is within 2^-50 of the real functions, and the final rounding adds 1/2. -/
theorem romCloseToRealFunctions : Obligations.RomCloseToRealFunctions := by
  unfold Obligations.RomCloseToRealFunctions
  intro M m hM
  obtain ⟨hcos, hsin⟩ := abs_romCos_romSin_sub_le m hM
  exact ⟨abs_clamp_rne_fixReal_sub_le (Real.abs_cos_le_one _) hcos,
    abs_clamp_rne_fixReal_sub_le (Real.abs_sin_le_one _) hsin, abs_hannq_sub_le (Real.abs_cos_le_one _) hcos⟩

end Sys2Proof.Machine
end
